-- ==== Sys2Proof/Config.lean ====
section
/-! DEFINITION. The parameters of 00_scope.md R6, each a named field at the value the spec gives it, and the two free values
(the inputs of a `Step` that nothing constrains: 92_eei_decisions.md D12, D13, D19).
Where a type has a parameter's size it says `delta% <parameter>`, which is the parameter's number itself: the size follows the
field here, and no proof meets a size that is a name. -/

namespace Sys2Proof.Config

/-- `XLEN_V` (R6): the width of a general register. -/
abbrev xlenV : Nat := 8

/-- `NREG` (R6): the number of general registers. -/
abbrev nreg : Nat := 16

/-- `XLEN_I` (R6, D7): the width of `I`. -/
abbrev xlenI : Nat := 16

/-- `XLEN_PC` (R6): the width of `pc`. -/
abbrev xlenPc : Nat := 16

/-- `ILEN` (R6): the width of every instruction. -/
abbrev ilen : Nat := 16

/-- `MEM_SIZE` (R6, D1): valid addresses are 0x000 to 0xFFE. -/
abbrev memSize : Nat := 4095

/-- `MEM_TOP` = `MEM_SIZE` - 1 = 0xFFE (R6, R14). -/
abbrev memTop : Nat := 4094

/-- `PROG_BASE` (R6): where `Load` puts the program, and the reset value of `pc`. -/
abbrev progBase : Nat := 0x200

/-- `PROG_MAX` (R6): the largest program, `MEM_SIZE` - 512 bytes. -/
abbrev progMax : Nat := 3583

/-- `FONT_BASE` (R6): the address of the Digit Sprite Table. -/
abbrev fontBase : Nat := 0x000

/-- `STACK_DEPTH` (R6, D2). -/
abbrev stackDepth : Nat := 16

/-- `FB_W` (R6). -/
abbrev fbWidth : Nat := 64

/-- `FB_H` (R6). -/
abbrev fbHeight : Nat := 32

/-- `TICK_HZ` (R6): the cadence of the external `Tick`. Informative only: no rule depends on it (R6, R173; log 23). -/
def tickHz : Nat := 60

/-- `SHL_FLAG_RAW` (R6, D8): false, so `8xyE` writes 0 or 1 to `VF`. The flag function takes it as an argument. -/
def shlFlagRaw : Bool := false

/-- `LOW_WRITE_ALLOWED` (R6, D17): true, so a store below 0x200 is performed. Recorded only: the spec gives no behaviour for
false, so the machine has no guard for it to switch (log 17). -/
def lowWriteAllowed : Bool := true

/-- `KEY_INDEX_MASK` (R6, D14). -/
def keyIndexMask : BitVec (delta% xlenV) := 0x0F

/-- `FONT_INDEX_MASK` (R6, D15). -/
def fontIndexMask : BitVec (delta% xlenV) := 0x0F

/-- `FONT` (R6, R36): the 80 bytes of the Digit Sprite Table, digit 0 first. PRESUMED (log 6): the spec takes the bitmaps
and their order from general knowledge (GK1, D29); unsafe for a claim about what a digit looks like. -/
def font : List (BitVec (delta% xlenV)) :=
  [0xF0, 0x90, 0x90, 0x90, 0xF0] ++ [0x20, 0x60, 0x20, 0x20, 0x70] ++
  [0xF0, 0x10, 0xF0, 0x80, 0xF0] ++ [0xF0, 0x10, 0xF0, 0x10, 0xF0] ++
  [0x90, 0x90, 0xF0, 0x10, 0x10] ++ [0xF0, 0x80, 0xF0, 0x10, 0xF0] ++
  [0xF0, 0x80, 0xF0, 0x90, 0xF0] ++ [0xF0, 0x10, 0x20, 0x40, 0x40] ++
  [0xF0, 0x90, 0xF0, 0x90, 0xF0] ++ [0xF0, 0x90, 0xF0, 0x10, 0xF0] ++
  [0xF0, 0x90, 0xF0, 0x90, 0x90] ++ [0xE0, 0x90, 0xE0, 0x90, 0xE0] ++
  [0xF0, 0x80, 0x80, 0x80, 0xF0] ++ [0xE0, 0x90, 0x90, 0x90, 0xE0] ++
  [0xF0, 0x80, 0xF0, 0x80, 0xF0] ++ [0xF0, 0x80, 0xF0, 0x80, 0x80]

/-- Free value (log 1; D12, D13, any 16-bit vector): the keys pressed at the `n`th `Step` whose inputs no listed host
operation gives. No body: nothing can be proved of it. -/
opaque freeKeys : Nat → BitVec 16

/-- Free value (log 1; D19, U9): the random byte handed to the `n`th such `Step`. No body. -/
opaque freeRand : Nat → BitVec (delta% xlenV)

end Sys2Proof.Config
end

