-- ==== Sys2Proof/Word.lean ====
section
/-! DEFINITION. The widths of the block (00_scope.md R6, R7): every value is unsigned. -/

namespace Sys2Proof

/-- A general register, a timer, or one byte of `MEM`: `XLEN_V` = 8 bits (R10, R14, R19). -/
abbrev Byte := BitVec (delta% Config.xlenV)

/-- An instruction word: `ILEN` = 16 bits (R50). -/
abbrev Word := BitVec (delta% Config.ilen)

/-- The index register `I`: `XLEN_I` = 16 bits (R12). -/
abbrev Index := BitVec (delta% Config.xlenI)

/-- The program counter, or a return address: `XLEN_PC` = 16 bits (R13, R15). -/
abbrev Pc := BitVec (delta% Config.xlenPc)

/-- The immediate `nnn` = `ir[11:0]` (R51). -/
abbrev Addr12 := BitVec 12

/-- The count `n` = `ir[3:0]`, or any other digit of an instruction word (R51). -/
abbrev Nibble := BitVec 4

/-- The index of a general register, from a 4-bit field: 0 to `NREG` - 1, so never out of range (R10). -/
abbrev Reg := Fin (delta% Config.nreg)

/-- A row of the framebuffer: 0 to `FB_H` - 1 (R18). -/
abbrev Row := Fin (delta% Config.fbHeight)

/-- A column of the framebuffer: 0 to `FB_W` - 1 (R18). -/
abbrev Column := Fin (delta% Config.fbWidth)

/-- `zext_16`: zero extension to 16 bits (R7, R53). -/
abbrev zext16 {w : Nat} (b : BitVec w) : BitVec 16 := b.setWidth 16

end Sys2Proof
end

