-- ==== Sys2Proof/Syntax.lean ====
section
/-! DEFINITION. The 34 instructions, one constructor per row of spec/opcode_table.json (30_encoding.md R55, R60). Every
operand has the exact width of its field, so no term is out of range (R53: `x` and `y` may be equal and may be 15, `n` may
be 0). `shr` and `shl` keep the field `y`, which is decoded and ignored (R53, R61). -/

namespace Sys2Proof

inductive Instr where
  | cls                            -- 00E0  CLS
  | ret                            -- 00EE  RET
  | jp (nnn : Addr12)              -- 1nnn  JP nnn
  | call (nnn : Addr12)            -- 2nnn  CALL nnn
  | seByte (x : Reg) (kk : Byte)   -- 3xkk  SE Vx, kk
  | sneByte (x : Reg) (kk : Byte)  -- 4xkk  SNE Vx, kk
  | seReg (x y : Reg)              -- 5xy0  SE Vx, Vy
  | ldByte (x : Reg) (kk : Byte)   -- 6xkk  LD Vx, kk
  | addByte (x : Reg) (kk : Byte)  -- 7xkk  ADD Vx, kk
  | ldReg (x y : Reg)              -- 8xy0  LD Vx, Vy
  | orReg (x y : Reg)              -- 8xy1  OR Vx, Vy
  | andReg (x y : Reg)             -- 8xy2  AND Vx, Vy
  | xorReg (x y : Reg)             -- 8xy3  XOR Vx, Vy
  | addReg (x y : Reg)             -- 8xy4  ADD Vx, Vy
  | subReg (x y : Reg)             -- 8xy5  SUB Vx, Vy
  | shr (x y : Reg)                -- 8xy6  SHR Vx
  | subnReg (x y : Reg)            -- 8xy7  SUBN Vx, Vy
  | shl (x y : Reg)                -- 8xyE  SHL Vx
  | sneReg (x y : Reg)             -- 9xy0  SNE Vx, Vy
  | ldI (nnn : Addr12)             -- Annn  LD I, nnn
  | jpV0 (nnn : Addr12)            -- Bnnn  JP V0, nnn
  | rnd (x : Reg) (kk : Byte)      -- Cxkk  RND Vx, kk
  | drw (x y : Reg) (n : Nibble)   -- Dxyn  DRW Vx, Vy, n
  | skp (x : Reg)                  -- Ex9E  SKP Vx
  | sknp (x : Reg)                 -- ExA1  SKNP Vx
  | ldFromDT (x : Reg)             -- Fx07  LD Vx, DT
  | ldKey (x : Reg)                -- Fx0A  LD Vx, K
  | ldToDT (x : Reg)               -- Fx15  LD DT, Vx
  | ldToST (x : Reg)               -- Fx18  LD ST, Vx
  | addI (x : Reg)                 -- Fx1E  ADD I, Vx
  | ldFont (x : Reg)               -- Fx29  LD F, Vx
  | ldBcd (x : Reg)                -- Fx33  LD B, Vx
  | storeRegs (x : Reg)            -- Fx55  LD [I], Vx
  | loadRegs (x : Reg)             -- Fx65  LD Vx, [I]
  deriving DecidableEq, Repr

end Sys2Proof
end

