-- ==== Sys2Proof/WellFormed.lean ====
section
/-! DEFINITION. What is well formed. An `Instr` cannot be ill formed (Syntax.lean: every field at every value is legal, R53);
what can be is a 16-bit word, which matches a row of the opcode map or is an unknown opcode (30_encoding.md R54, R55, R57),
and a program, which fits the program region or does not (20_memory.md R47). The opcode map stands here as the table gives
it, apart from the decoder (Decode.lean), which is written from the two-level form of R54; that the two agree is a
statement. -/

namespace Sys2Proof

/-- One row of the opcode map (R55). -/
structure OpcodeRow where
  mnemonic : String
  pattern : Word
  mask : Word
  deriving DecidableEq, Repr

/-- `(ir AND mask) = match` (R54). -/
def OpcodeRow.selects (r : OpcodeRow) (ir : Word) : Bool := ir &&& r.mask == r.pattern

/-- A part of the opcode map (R55). -/
def mapLow : List OpcodeRow :=
  [{ mnemonic := "CLS", pattern := 0x00E0, mask := 0xFFFF },
   { mnemonic := "RET", pattern := 0x00EE, mask := 0xFFFF },
   { mnemonic := "JP_nnn", pattern := 0x1000, mask := 0xF000 },
   { mnemonic := "CALL_nnn", pattern := 0x2000, mask := 0xF000 },
   { mnemonic := "SE_Vx__kk", pattern := 0x3000, mask := 0xF000 },
   { mnemonic := "SNE_Vx__kk", pattern := 0x4000, mask := 0xF000 },
   { mnemonic := "SE_Vx__Vy", pattern := 0x5000, mask := 0xF00F },
   { mnemonic := "LD_Vx__kk", pattern := 0x6000, mask := 0xF000 },
   { mnemonic := "ADD_Vx__kk", pattern := 0x7000, mask := 0xF000 }]

/-- A part of the opcode map (R55). -/
def mapArith : List OpcodeRow :=
  [{ mnemonic := "LD_Vx__Vy", pattern := 0x8000, mask := 0xF00F },
   { mnemonic := "OR_Vx__Vy", pattern := 0x8001, mask := 0xF00F },
   { mnemonic := "AND_Vx__Vy", pattern := 0x8002, mask := 0xF00F },
   { mnemonic := "XOR_Vx__Vy", pattern := 0x8003, mask := 0xF00F },
   { mnemonic := "ADD_Vx__Vy", pattern := 0x8004, mask := 0xF00F },
   { mnemonic := "SUB_Vx__Vy", pattern := 0x8005, mask := 0xF00F },
   { mnemonic := "SHR_Vx", pattern := 0x8006, mask := 0xF00F },
   { mnemonic := "SUBN_Vx__Vy", pattern := 0x8007, mask := 0xF00F },
   { mnemonic := "SHL_Vx", pattern := 0x800E, mask := 0xF00F },
   { mnemonic := "SNE_Vx__Vy", pattern := 0x9000, mask := 0xF00F }]

/-- A part of the opcode map (R55). -/
def mapHigh : List OpcodeRow :=
  [{ mnemonic := "LD_I__nnn", pattern := 0xA000, mask := 0xF000 },
   { mnemonic := "JP_V0__nnn", pattern := 0xB000, mask := 0xF000 },
   { mnemonic := "RND_Vx__kk", pattern := 0xC000, mask := 0xF000 },
   { mnemonic := "DRW_Vx__Vy__n", pattern := 0xD000, mask := 0xF000 },
   { mnemonic := "SKP_Vx", pattern := 0xE09E, mask := 0xF0FF },
   { mnemonic := "SKNP_Vx", pattern := 0xE0A1, mask := 0xF0FF }]

/-- A part of the opcode map (R55). -/
def mapF : List OpcodeRow :=
  [{ mnemonic := "LD_Vx__DT", pattern := 0xF007, mask := 0xF0FF },
   { mnemonic := "LD_Vx__K", pattern := 0xF00A, mask := 0xF0FF },
   { mnemonic := "LD_DT__Vx", pattern := 0xF015, mask := 0xF0FF },
   { mnemonic := "LD_ST__Vx", pattern := 0xF018, mask := 0xF0FF },
   { mnemonic := "ADD_I__Vx", pattern := 0xF01E, mask := 0xF0FF },
   { mnemonic := "LD_F__Vx", pattern := 0xF029, mask := 0xF0FF },
   { mnemonic := "LD_B__Vx", pattern := 0xF033, mask := 0xF0FF },
   { mnemonic := "LD__I___Vx", pattern := 0xF055, mask := 0xF0FF },
   { mnemonic := "LD_Vx___I", pattern := 0xF065, mask := 0xF0FF }]

/-- The opcode map: the 34 rows of R55. -/
def opcodeMap : List OpcodeRow := mapLow ++ mapArith ++ mapHigh ++ mapF

/-- The word is an instruction, not an unknown opcode (R54, R57). -/
def wordDefined (ir : Word) : Bool := opcodeMap.any (fun r => r.selects ir)

/-- The program fits the program region, `len` at most `PROG_MAX` (R47, R192). -/
def programFits (program : List Byte) : Bool := program.length ≤ Config.progMax

end Sys2Proof
end

