-- ==== Sys2Proof/Decode.lean ====
section
/-! DEFINITION. The decoder, written from the two-level form of 30_encoding.md R54, and after it the encoder, written from the
formats of R52 and the patterns of R55. Decoding reads no state and is total on any bytes. -/

namespace Sys2Proof

/-- Why bytes are not an instruction: `unknownOpcode`, the word matches no row (R57); `truncated`, there are not two bytes
(only a caller with fewer than two bytes sees it: a fetch always has two, R73). Neither stops the machine (R78). -/
inductive DecodeError where
  | unknownOpcode (ir : Word)
  | truncated
  deriving DecidableEq, Repr

/-- `op` = `ir[15:12]` (R51). -/
def opField (ir : Word) : Nibble := ir.extractLsb' 12 4

/-- `x` = `ir[11:8]` (R51). -/
def xField (ir : Word) : Reg := (ir.extractLsb' 8 4).toFin

/-- `y` = `ir[7:4]` (R51). -/
def yField (ir : Word) : Reg := (ir.extractLsb' 4 4).toFin

/-- `n` = `ir[3:0]` (R51). -/
def nField (ir : Word) : Nibble := ir.extractLsb' 0 4

/-- `kk` = `ir[7:0]` (R51). -/
def kkField (ir : Word) : Byte := ir.extractLsb' 0 8

/-- `nnn` = `ir[11:0]` (R51). -/
def nnnField (ir : Word) : Addr12 := ir.extractLsb' 0 12

/-- Family 0: only the two whole words (R54, R56, R60). -/
def decodeFamily0 (ir : Word) : Except DecodeError Instr :=
  if ir = 0x00E0 then .ok .cls
  else if ir = 0x00EE then .ok .ret
  else .error (.unknownOpcode ir)

/-- Family 8: the secondary opcode is `n` (R54). -/
def decodeFamily8 (ir : Word) : Except DecodeError Instr :=
  let x := xField ir
  let y := yField ir
  if nField ir = 0x0 then .ok (.ldReg x y)
  else if nField ir = 0x1 then .ok (.orReg x y)
  else if nField ir = 0x2 then .ok (.andReg x y)
  else if nField ir = 0x3 then .ok (.xorReg x y)
  else if nField ir = 0x4 then .ok (.addReg x y)
  else if nField ir = 0x5 then .ok (.subReg x y)
  else if nField ir = 0x6 then .ok (.shr x y)
  else if nField ir = 0x7 then .ok (.subnReg x y)
  else if nField ir = 0xE then .ok (.shl x y)
  else .error (.unknownOpcode ir)

/-- Family E: the secondary opcode is `kk` (R54). -/
def decodeFamilyE (ir : Word) : Except DecodeError Instr :=
  if kkField ir = 0x9E then .ok (.skp (xField ir))
  else if kkField ir = 0xA1 then .ok (.sknp (xField ir))
  else .error (.unknownOpcode ir)

/-- Family F: the secondary opcode is `kk` (R54, R55). -/
def decodeFamilyF (ir : Word) : Except DecodeError Instr :=
  let x := xField ir
  if kkField ir = 0x07 then .ok (.ldFromDT x)
  else if kkField ir = 0x0A then .ok (.ldKey x)
  else if kkField ir = 0x15 then .ok (.ldToDT x)
  else if kkField ir = 0x18 then .ok (.ldToST x)
  else if kkField ir = 0x1E then .ok (.addI x)
  else if kkField ir = 0x29 then .ok (.ldFont x)
  else if kkField ir = 0x33 then .ok (.ldBcd x)
  else if kkField ir = 0x55 then .ok (.storeRegs x)
  else if kkField ir = 0x65 then .ok (.loadRegs x)
  else .error (.unknownOpcode ir)

/-- The decoder (R54): the top four bits select a family. -/
def decodeWord (ir : Word) : Except DecodeError Instr :=
  if opField ir = 0x0 then decodeFamily0 ir
  else if opField ir = 0x1 then .ok (.jp (nnnField ir))
  else if opField ir = 0x2 then .ok (.call (nnnField ir))
  else if opField ir = 0x3 then .ok (.seByte (xField ir) (kkField ir))
  else if opField ir = 0x4 then .ok (.sneByte (xField ir) (kkField ir))
  else if opField ir = 0x5 then
    if nField ir = 0x0 then .ok (.seReg (xField ir) (yField ir)) else .error (.unknownOpcode ir)
  else if opField ir = 0x6 then .ok (.ldByte (xField ir) (kkField ir))
  else if opField ir = 0x7 then .ok (.addByte (xField ir) (kkField ir))
  else if opField ir = 0x8 then decodeFamily8 ir
  else if opField ir = 0x9 then
    if nField ir = 0x0 then .ok (.sneReg (xField ir) (yField ir)) else .error (.unknownOpcode ir)
  else if opField ir = 0xA then .ok (.ldI (nnnField ir))
  else if opField ir = 0xB then .ok (.jpV0 (nnnField ir))
  else if opField ir = 0xC then .ok (.rnd (xField ir) (kkField ir))
  else if opField ir = 0xD then .ok (.drw (xField ir) (yField ir) (nField ir))
  else if opField ir = 0xE then decodeFamilyE ir
  else decodeFamilyF ir

/-- A word from its two bytes, high byte first (20_memory.md R33). -/
def wordOfBytes (hi lo : Byte) : Word := hi ++ lo

/-- The instruction at the front of a list of bytes, and the rest of the list (R50, R33). -/
def decodeBytes : List Byte → Except DecodeError (Instr × List Byte)
  | hi :: lo :: rest =>
    match decodeWord (wordOfBytes hi lo) with
    | .ok i => .ok (i, rest)
    | .error e => .error e
  | _ => .error .truncated

/-- The bytes of a word as memory holds them: high byte at the lower address (R33, R63). -/
def wordBytes (ir : Word) : List Byte := [ir.extractLsb' 8 8, ir.extractLsb' 0 8]

/-- What the decoder reads from an opcode-table word of `nbits` bits, laid out high byte first. -/
def decodeTableWord (nbits w : Nat) : Option Instr :=
  match decodeBytes (wordBytes (BitVec.ofNat 16 (w % 2 ^ nbits))) with
  | .ok (i, _) => some i
  | .error _ => none

/-- A register index as its four bits. -/
def regBits (r : Reg) : Nibble := BitVec.ofFin r

/-- Format NNN (R52). -/
def formNNN (op : Nibble) (nnn : Addr12) : Word := op ++ nnn

/-- Format XKK (R52). -/
def formXKK (op : Nibble) (x : Reg) (kk : Byte) : Word := (op ++ regBits x) ++ kk

/-- Formats XY and XYN (R52): the low digit is a secondary opcode or the count. -/
def formXYN (op : Nibble) (x y : Reg) (n : Nibble) : Word := (op ++ regBits x) ++ (regBits y ++ n)

/-- Format X (R52): the low byte is a secondary opcode. -/
def formX (op : Nibble) (x : Reg) (sub : Byte) : Word := (op ++ regBits x) ++ sub

/-- The word of an instruction (R52, R55, R63). -/
def encode : Instr → Word
  | .cls => 0x00E0
  | .ret => 0x00EE
  | .jp nnn => formNNN 0x1 nnn
  | .call nnn => formNNN 0x2 nnn
  | .seByte x kk => formXKK 0x3 x kk
  | .sneByte x kk => formXKK 0x4 x kk
  | .seReg x y => formXYN 0x5 x y 0x0
  | .ldByte x kk => formXKK 0x6 x kk
  | .addByte x kk => formXKK 0x7 x kk
  | .ldReg x y => formXYN 0x8 x y 0x0
  | .orReg x y => formXYN 0x8 x y 0x1
  | .andReg x y => formXYN 0x8 x y 0x2
  | .xorReg x y => formXYN 0x8 x y 0x3
  | .addReg x y => formXYN 0x8 x y 0x4
  | .subReg x y => formXYN 0x8 x y 0x5
  | .shr x y => formXYN 0x8 x y 0x6
  | .subnReg x y => formXYN 0x8 x y 0x7
  | .shl x y => formXYN 0x8 x y 0xE
  | .sneReg x y => formXYN 0x9 x y 0x0
  | .ldI nnn => formNNN 0xA nnn
  | .jpV0 nnn => formNNN 0xB nnn
  | .rnd x kk => formXKK 0xC x kk
  | .drw x y n => formXYN 0xD x y n
  | .skp x => formX 0xE x 0x9E
  | .sknp x => formX 0xE x 0xA1
  | .ldFromDT x => formX 0xF x 0x07
  | .ldKey x => formX 0xF x 0x0A
  | .ldToDT x => formX 0xF x 0x15
  | .ldToST x => formX 0xF x 0x18
  | .addI x => formX 0xF x 0x1E
  | .ldFont x => formX 0xF x 0x29
  | .ldBcd x => formX 0xF x 0x33
  | .storeRegs x => formX 0xF x 0x55
  | .loadRegs x => formX 0xF x 0x65

/-- The two bytes of an instruction as memory holds them (R63). -/
def encodeBytes (i : Instr) : List Byte := wordBytes (encode i)

end Sys2Proof
end

