-- ==== Sys2Proof/Machine/State.lean ====
section
/-! DEFINITION. The state of the block (10_state.md section 1 and R10 to R26), as plain data, and what an operation of the
host may be and may return (60_exceptions.md R177, 40_step_cycle.md R71). -/

namespace Sys2Proof.Machine

/-- `STATUS`, what the engine will do with the next `Step` (R20). -/
inductive Status where
  | notLoaded
  | ready
  | halted
  deriving DecidableEq, Repr

/-- `ERR`, the fatal error that halted the engine (R21). -/
inductive Err where
  | noError
  | stackOverflow
  | stackUnderflow
  | addressOutOfBounds
  deriving DecidableEq, Repr

/-- The framebuffer `FB`: `FB_H` = 32 rows of `FB_W` = 64 one-bit pixels (R18). Bit `c` of row `r` is `FB[r][c]` (log 24). -/
abbrev Frame := Vector (BitVec (delta% Config.fbWidth)) (delta% Config.fbHeight)

/-- The operations of the host, each atomic (R177). `step` carries the inputs `KEYS` (bit `k` is `KEYS[k]`) and `RAND` (R24);
`load` carries the bytes of the program, whose number is `len` (R192). -/
inductive HostOp where
  | reset
  | load (program : List Byte)
  | step (keys : BitVec 16) (rand : Byte)
  | tick
  | snapshot
  | getDelay
  | getSound
  | setDelay (value : Byte)
  | setSound (value : Byte)
  deriving DecidableEq, Repr

/-- What the host gets back from an operation: the outcome of a `Step` (R71: `done`, `unknown`, `awaitKey`, `fatal`,
`refused`), or the last column of R177's table. -/
inductive Reply where
  | nothing
  | done
  | unknown (ir : Word) (addr : Pc)
  | awaitKey
  | fatal (err : Err)
  | refused
  | loadOk
  | loadFailed
  | frame (pixels : Frame)
  | value (byte : Byte)
  deriving DecidableEq, Repr

/-- The whole state. The first eleven fields are the block's (R10 to R21; R25: nothing else persists). The last five are the
MODEL'S OWN (logs 1 to 3): the inputs of the step in progress, the host operations still to come, how many free inputs have
been drawn, and what the last operation returned. -/
structure State where
  v : Vector Byte (delta% Config.nreg)                -- V[0..15]; VF is V[15]
  i : Index                   -- I
  pc : Pc
  mem : List Host.Cell        -- MEM, canonical: Machine/Memory.lean
  stack : Vector Pc (delta% Config.stackDepth)        -- STACK[0..15], dead entries included
  sp : Fin ((delta% Config.stackDepth) + 1)           -- SP, five bits, legal values 0..16
  fb : Frame                  -- FB
  dt : Byte                   -- DT
  st : Byte                   -- ST
  status : Status             -- STATUS
  err : Err                   -- ERR
  keys : BitVec 16            -- KEYS of the step in progress
  rand : Byte                 -- RAND of the step in progress
  hostOps : List HostOp       -- host operations to come, oldest first
  draws : Nat                 -- free inputs drawn so far
  reply : Reply               -- what the last host operation returned
  deriving DecidableEq, Repr

/-- No step of this block ends in a fault: each of its three fatal errors has an entry that the spec describes (R164), and
the machine takes it as a next state. So nobody raises a fault, and the type has no constructor. Safe: there is nothing to
stop on. -/
inductive Fault where
  deriving DecidableEq, Repr

/-- Why a step is refused. -/
inductive Refusal where
  /-- Raised only by an arm of `exec` that has no meaning yet, with the table's mnemonic. Safe: it stops. No arm raises it. -/
  | notModelled (mnemonic : String)
  deriving DecidableEq, Repr

/-- The machine right after `Reset` (R26, R190), which is also its power-on state. It takes all of R26, and so, of what R27 asks
of every model, `pc`, `SP`, `STATUS`, `ERR` and (by `Memory.resetByte`) the font bytes; R27's program bytes are
`State.doLoad`'s. The zeros are the spec's decision D18 (log 5, unsafe); the last five fields are DESIGN CHOICE (log 21). Memory lists nothing: an unlisted byte reads as the reset
contents (log 28). -/
def State.reset : State where
  v := Vector.replicate _ 0
  i := 0
  pc := BitVec.ofNat _ Config.progBase
  mem := []
  stack := Vector.replicate _ 0
  sp := 0
  fb := Vector.replicate _ 0
  dt := 0
  st := 0
  status := .notLoaded
  err := .noError
  keys := 0
  rand := 0
  hostOps := []
  draws := 0
  reply := .nothing

end Sys2Proof.Machine
end

