-- ==== Sys2Proof/Machine/Memory.lean ====
section
/-! DEFINITION. `MEM` as a list of (address, byte) pairs in one canonical form (log 28): addresses strictly rising, all below
`MEM_SIZE`, and no entry equal to the reset contents of its address. The one byte-addressed space of 20_memory.md R30, R31;
addresses are exact integers (R39). -/

namespace Sys2Proof.Machine

/-- What an unlisted address reads as: its contents after `Reset`, the font and then zeros (R26, R31, R36;
the font bytes are the part R27 asks of every model). -/
def Memory.resetByte (a : Nat) : Byte :=
  if Config.fontBase ≤ a then Config.font.getD (a - Config.fontBase) 0 else 0

/-- The byte at an address (R32). The bounds check is the caller's (`State.guarded`, R38): this is total. -/
def Memory.read : List Host.Cell → Nat → Byte
  | [], a => Memory.resetByte a
  | c :: rest, a => if c.1 = a then c.2 else Memory.read rest a

/-- One entry in front of a list, or none where the byte is what an unlisted address reads as. -/
def Memory.consCell (a : Nat) (b : Byte) (rest : List Host.Cell) : List Host.Cell :=
  if b = Memory.resetByte a then rest else (a, b) :: rest

/-- A byte put in its place in the rising list. -/
def Memory.insert : List Host.Cell → Nat → Byte → List Host.Cell
  | [], a, b => Memory.consCell a b []
  | c :: rest, a, b =>
    if a < c.1 then Memory.consCell a b (c :: rest)
    else if a = c.1 then Memory.consCell a b rest
    else c :: Memory.insert rest a b

/-- A write changes exactly one byte (R32); an address that does not exist holds none (R14), so nothing is kept there. The
bounds check is the caller's (R38). -/
def Memory.write (m : List Host.Cell) (a : Nat) (b : Byte) : List Host.Cell :=
  if a < Config.memSize then Memory.insert m a b else m

/-- Bytes written at consecutive addresses, in ascending order (R35). -/
def Memory.writeList : List Host.Cell → Nat → List Byte → List Host.Cell
  | m, _, [] => m
  | m, a, b :: bs => Memory.writeList (Memory.write m a b) (a + 1) bs

/-- The canonical form from address `lo` on. -/
def Memory.wfFrom (lo : Nat) : List Host.Cell → Bool
  | [] => true
  | c :: rest =>
    decide (lo ≤ c.1) && decide (c.1 < Config.memSize) && decide (c.2 ≠ Memory.resetByte c.1) &&
      Memory.wfFrom (c.1 + 1) rest

/-- The canonical form holds. -/
def Memory.wf (m : List Host.Cell) : Bool := Memory.wfFrom 0 m

end Sys2Proof.Machine
end

