-- ==== Sys2Proof/Machine/Ops.lean ====
section
/-! DEFINITION. The named operations over registers, memory and stack; completing an instruction; and TAKING A FATAL ERROR,
once for every instruction and for the fetch (60_exceptions.md R164). There is no return from a fatal error (R167).
A meaning gets the state with `pc` still at the instruction's own address `a`, and advances it itself (log 20). -/

namespace Sys2Proof.Machine

/-- What a step answers. -/
abbrev Out := Host.Outcome State Fault Refusal

/-- `VF` = `V[15]`, the flag register (R11). -/
def vf : Reg := 15

/-- `V[r]` (R10). -/
def State.getV (s : State) (r : Reg) : Byte := s.v[r]

/-- `V[r] <- b` (R7, R10). -/
def State.setV (s : State) (r : Reg) (b : Byte) : State := { s with v := s.v.set r b }

/-- `I <- w` (R12). -/
def State.setI (s : State) (w : Index) : State := { s with i := w }

/-- `pc <- w` (R13). -/
def State.setPc (s : State) (w : Pc) : State := { s with pc := w }

/-- `DT <- b` (R19). -/
def State.setDt (s : State) (b : Byte) : State := { s with dt := b }

/-- `ST <- b` (R19). -/
def State.setSt (s : State) (b : Byte) : State := { s with st := b }

/-- `FB <- f` (R18). -/
def State.setFb (s : State) (f : Frame) : State := { s with fb := f }

/-- The host operation in progress returns `r` (R71, R177; log 3). -/
def State.setReply (s : State) (r : Reply) : State := { s with reply := r }

/-- Phase 2, `pc <- a + 2`, before the instruction executes (R74). -/
def State.advance (s : State) : State := s.setPc (s.pc + 2)

/-- `pc <- pc + 2` on the advanced `pc` where the condition holds (R90). -/
def State.skipIf (s : State) (c : Bool) : State := if c then s.setPc (s.pc + 2) else s

/-- `MEM[a]` (R32). -/
def State.readByte (s : State) (a : Nat) : Byte := Memory.read s.mem a

/-- `n` bytes from `a` on, in ascending order (R35). -/
def State.readBytes (s : State) (a n : Nat) : List Byte := (List.range n).map (fun k => s.readByte (a + k))

/-- Bytes stored from `a` on, in ascending order (R35); below 0x200 like anywhere else (R40). -/
def State.storeBytes (s : State) (a : Nat) (bs : List Byte) : State := { s with mem := Memory.writeList s.mem a bs }

/-- `FB[r][c]` (R18). -/
def State.pixel (s : State) (r : Row) (c : Column) : Bool := s.fb[r].getLsbD c

/-- `Push(w)` (R17): none where the stack is full. -/
def State.push (s : State) (w : Pc) : Option State :=
  if s.sp.val = Config.stackDepth then none
  else some { s with stack := s.stack.setIfInBounds s.sp.val w, sp := Fin.ofNat _ (s.sp.val + 1) }

/-- `Pop()` (R17): none where the stack is empty. The popped entry stays as a dead entry (R16). -/
def State.pop (s : State) : Option (Pc × State) :=
  if s.sp.val = 0 then none
  else some (s.stack.getD (s.sp.val - 1) 0, { s with sp := Fin.ofNat _ (s.sp.val - 1) })

/-- The instruction has executed: outcome `Done` (R71, R77). -/
def State.complete (s : State) : Out := .next (s.setReply .done)

/-- TAKING A FATAL ERROR (R164, R77), from the state at the step's entry, so that every write of the step, the advance of `pc`
included, is discarded: `STATUS <- HALTED`, `ERR <- e`, outcome `Fatal(e)`, nothing else. -/
def State.raise (s : State) (e : Err) : Out := .next { s with status := .halted, err := e, reply := .fatal e }

/-- Some address of `base .. base + count - 1` is above `MEM_TOP`; never where `count` is 0 (R39). -/
abbrev beyondMemory (base count : Nat) : Prop := 1 ≤ count ∧ Config.memTop < base + count - 1

/-- The bounds check of an access to `count` bytes from `base` on, made before any effect (R38, R39). -/
def State.guarded (s : State) (base count : Nat) (access : Out) : Out :=
  if beyondMemory base count then s.raise .addressOutOfBounds else access

end Sys2Proof.Machine
end

