-- ==== Sys2Proof/Machine/Flags.lean ====
section
/-! DEFINITION. The values written to `VF` (10_state.md R11; 42_alu.md R116 to R120; 44_display.md R145). -/

namespace Sys2Proof.Machine

/-- 1 or 0. -/
def flagByte (b : Bool) : Byte := if b then 1 else 0

/-- `8xy4`: 1 if the exact sum is above 255 (R116). -/
def carryFlag (p q : Byte) : Byte := flagByte (decide (255 < p.toNat + q.toNat))

/-- `8xy5` and `8xy7`: 1 if the minuend `p` is strictly greater than the subtrahend `q` (R117, R119). -/
def greaterFlag (p q : Byte) : Byte := flagByte (decide (q.toNat < p.toNat))

/-- `8xy6`: bit 0 (R118). -/
def shrFlag (p : Byte) : Byte := p &&& 1

/-- `8xyE`: bit 7 as 0 or 1, or as 0 or 0x80 where `raw` (R120, `SHL_FLAG_RAW`). -/
def shlFlag (raw : Bool) (p : Byte) : Byte := if p.getLsbD 7 then (if raw then 0x80 else 1) else 0

end Sys2Proof.Machine
end

