-- ==== Sys2Proof/Machine/Operands.lean ====
section
/-! DEFINITION. The operand forms: the effective address (43_index_memory.md R131), the key and digit numbers taken from a
register (45_keys_timers.md R152, R133), the register range of `Fx55` and `Fx65` (R135, R136), the decimal digits of `Fx33`
(R134), and the start coordinates of `Dxyn` (44_display.md R144). -/

namespace Sys2Proof.Machine

/-- The base of every data access, `I` as an exact integer (R131, R39). -/
def State.base (s : State) : Nat := s.i.toNat

/-- How many registers `V[0]..V[x]` are (R135, R136). -/
def rangeCount (x : Reg) : Nat := x.val + 1

/-- The bytes `V[0]..V[x]` in ascending order (R135). -/
def State.regRange (s : State) (x : Reg) : List Byte := s.v.toList.take (rangeCount x)

/-- `V[k] <- f k` for `k` = 0..`x`; the registers above keep their values (R136). -/
def State.setRange (s : State) (x : Reg) (f : Nat → Byte) : State :=
  { s with v := Vector.ofFn (fun k : Reg => if k ≤ x then f k.val else s.getV k) }

/-- Key number `V[x] AND KEY_INDEX_MASK` (R152). -/
def keyIndex (b : Byte) : Nat := (b &&& Config.keyIndexMask).toNat

/-- `KeyPressed(k)` (R152). -/
def State.keyPressed (s : State) (k : Nat) : Bool := s.keys.getLsbD k

/-- `AnyKey()`: the least pressed key, or none (R152). -/
def State.anyKey (s : State) : Option Nat := (List.range 16).find? (fun k => s.keyPressed k)

/-- The address of the digit in a register: `FONT_BASE + 5 * (V[x] AND FONT_INDEX_MASK)` (R133, R37). -/
def fontAddress (b : Byte) : Index := BitVec.ofNat _ (Config.fontBase + 5 * (b &&& Config.fontIndexMask).toNat)

/-- Hundreds, tens and ones, each a whole byte (R134). -/
def bcdDigits (b : Byte) : List Byte :=
  [BitVec.ofNat 8 (b.toNat / 100), BitVec.ofNat 8 (b.toNat / 10 % 10), BitVec.ofNat 8 (b.toNat % 10)]

/-- The start column `V[x] mod 64` (R142). -/
def startColumn (b : Byte) : Nat := b.toNat % Config.fbWidth

/-- The start row `V[y] mod 32` (R142). -/
def startRow (b : Byte) : Nat := b.toNat % Config.fbHeight

end Sys2Proof.Machine
end

