-- ==== Sys2Proof/Machine/Alu.lean ====
section
/-! DEFINITION. Loads, arithmetic, logic, shifts and random (42_alu.md R110 to R123). Every one ends at `a + 2` with outcome
`Done`. Assignments are made in the order the spec prints them (R111, D9; log 12). -/

namespace Sys2Proof.Machine

/-- One result register and no flag. -/
def State.result (s : State) (x : Reg) (b : Byte) : Out := (s.advance.setV x b).complete

/-- The result, then the flag: the flag wins where `x = F` (R111). -/
def State.resultThenFlag (s : State) (x : Reg) (b flag : Byte) : Out := ((s.advance.setV x b).setV vf flag).complete

/-- The flag, then the result computed from `V[x]` as it now stands: it acts on the flag where `x = F` (R111). -/
def State.flagThenShift (s : State) (x : Reg) (flag : Byte) (shift : Byte → Byte) : Out :=
  let t := s.advance.setV vf flag
  (t.setV x (shift (t.getV x))).complete

/-- `LD Vx, kk` (R110). -/
def execLdByte (x : Reg) (kk : Byte) (s : State) : Out := s.result x kk

/-- `ADD Vx, kk` (R112): no flag. -/
def execAddByte (x : Reg) (kk : Byte) (s : State) : Out := s.result x (s.getV x + kk)

/-- `LD Vx, Vy` (R113). -/
def execLdReg (x y : Reg) (s : State) : Out := s.result x (s.getV y)

/-- `OR Vx, Vy` (R114): no flag. -/
def execOrReg (x y : Reg) (s : State) : Out := s.result x (s.getV x ||| s.getV y)

/-- `AND Vx, Vy` (R115): no flag. -/
def execAndReg (x y : Reg) (s : State) : Out := s.result x (s.getV x &&& s.getV y)

/-- `XOR Vx, Vy` (R122): no flag. -/
def execXorReg (x y : Reg) (s : State) : Out := s.result x (s.getV x ^^^ s.getV y)

/-- `ADD Vx, Vy` (R116). -/
def execAddReg (x y : Reg) (s : State) : Out :=
  s.resultThenFlag x (s.getV x + s.getV y) (carryFlag (s.getV x) (s.getV y))

/-- `SUB Vx, Vy` (R117). -/
def execSubReg (x y : Reg) (s : State) : Out :=
  s.resultThenFlag x (s.getV x - s.getV y) (greaterFlag (s.getV x) (s.getV y))

/-- `SUBN Vx, Vy` (R119). -/
def execSubnReg (x y : Reg) (s : State) : Out :=
  s.resultThenFlag x (s.getV y - s.getV x) (greaterFlag (s.getV y) (s.getV x))

/-- `SHR Vx` (R118): `V[x]` is shifted in place; the field `y` is ignored. -/
def execShr (x _y : Reg) (s : State) : Out := s.flagThenShift x (shrFlag (s.getV x)) (fun b => b >>> 1)

/-- `SHL Vx` (R120): `V[x]` is shifted in place; the field `y` is ignored. -/
def execShl (x _y : Reg) (s : State) : Out :=
  s.flagThenShift x (shlFlag Config.shlFlagRaw (s.getV x)) (fun b => b <<< 1)

/-- `RND Vx, kk` (R121): `RAND` is an input of the step, under no law. -/
def execRnd (x : Reg) (kk : Byte) (s : State) : Out := s.result x (s.rand &&& kk)

end Sys2Proof.Machine
end

