-- ==== Sys2Proof/Machine/Display.lean ====
section
/-! DEFINITION. The framebuffer_bit_writer and its two instructions (44_display.md R140 to R146). The sub-block reads and
writes `FB` only and returns the collision flag; the engine copies it to `VF` (R140). -/

namespace Sys2Proof.Machine

/-- The framebuffer while a sprite is drawn, and whether a set pixel has been unset so far. -/
structure Canvas where
  fb : Frame
  collided : Bool
  deriving DecidableEq, Repr

/-- `FB[r][c]` of a framebuffer. -/
def framePixel (f : Frame) (r : Row) (c : Column) : Bool := f[r].getLsbD c

/-- `FB[r][c] <- FB[r][c] XOR 1`. -/
def flipPixel (f : Frame) (r : Row) (c : Column) : Frame := f.set r (f[r] ^^^ BitVec.twoPow _ c)

/-- A screen row, `mod 32` (R144). -/
def wrapRow (n : Nat) : Row := Fin.ofNat _ n

/-- A screen column, `mod 64` (R144). -/
def wrapColumn (n : Nat) : Column := Fin.ofNat _ n

/-- One sprite bit on one pixel: a 0 does nothing, a 1 flips the pixel and records a set-to-unset transition (R142, R145). -/
def Canvas.drawBit (p : Canvas) (r : Row) (c : Column) (bit : Bool) : Canvas :=
  if bit then { fb := flipPixel p.fb r c, collided := p.collided || framePixel p.fb r c } else p

/-- One sprite row at screen row `r`: bit `7 - col` goes to column `(x0 + col) mod 64` (R143, R144). -/
def Canvas.drawRow (p : Canvas) (x0 : Nat) (r : Row) (s : Byte) : Canvas :=
  (List.range 8).foldl (fun q col => q.drawBit r (wrapColumn (x0 + col)) (s.getLsbD (7 - col))) p

/-- The sprite rows from screen row `y0` on, each at `y0 mod 32` by itself (R144). -/
def Canvas.drawRows (p : Canvas) (x0 y0 : Nat) : List Byte → Canvas
  | [] => p
  | s :: rest => (p.drawRow x0 (wrapRow y0) s).drawRows x0 (y0 + 1) rest

/-- `draw_sprite(x, y, sprite_bytes)` (R140): the new framebuffer and the collision flag. -/
def drawSprite (f : Frame) (x0 y0 : Nat) (sprite : List Byte) : Canvas :=
  (Canvas.mk f false).drawRows x0 y0 sprite

/-- `CLS` (R141). -/
def execCls (s : State) : Out := (s.advance.setFb (Vector.replicate _ 0)).complete

/-- `DRW Vx, Vy, n` (R142): the coordinates are the values on entry, and `VF` is written last. With `n = 0` nothing is read,
checked or drawn, and `VF <- 0` (R146). -/
def execDrw (x y : Reg) (n : Nibble) (s : State) : Out :=
  let drawn := drawSprite s.fb (startColumn (s.getV x)) (startRow (s.getV y)) (s.readBytes s.base n.toNat)
  s.guarded s.base n.toNat ((s.advance.setFb drawn.fb).setV vf (flagByte drawn.collided)).complete

end Sys2Proof.Machine
end

