-- ==== Sys2Proof/Machine/Flow.lean ====
section
/-! DEFINITION. Control transfer: `1nnn`, `2nnn`, `00EE`, `Bnnn`, `3xkk`, `4xkk`, `5xy0`, `9xy0` (41_flow.md R90 to R98). -/

namespace Sys2Proof.Machine

/-- A skip instruction: the condition is over values on entry, and the step ends at `a + 4` or `a + 2` (R90). -/
def State.skipWhen (s : State) (c : Bool) : Out := (s.advance.skipIf c).complete

/-- `JP nnn` (R91). -/
def execJp (nnn : Addr12) (s : State) : Out := (s.advance.setPc (zext16 nnn)).complete

/-- `CALL nnn` (R92): the advanced `pc` is pushed; `StackOverflow` where the stack is full (R161). -/
def execCall (nnn : Addr12) (s : State) : Out :=
  match s.advance.push s.advance.pc with
  | none => s.raise .stackOverflow
  | some t => (t.setPc (zext16 nnn)).complete

/-- `RET` (R93): `StackUnderflow` where the stack is empty (R162). -/
def execRet (s : State) : Out :=
  match s.advance.pop with
  | none => s.raise .stackUnderflow
  | some (w, t) => (t.setPc w).complete

/-- `JP V0, nnn` (R94): a 16-bit sum, not masked to 12 bits. -/
def execJpV0 (nnn : Addr12) (s : State) : Out := (s.advance.setPc (zext16 nnn + zext16 (s.getV 0))).complete

/-- `SE Vx, kk` (R95). -/
def execSeByte (x : Reg) (kk : Byte) (s : State) : Out := s.skipWhen (s.getV x == kk)

/-- `SNE Vx, kk` (R96). -/
def execSneByte (x : Reg) (kk : Byte) (s : State) : Out := s.skipWhen (s.getV x != kk)

/-- `SE Vx, Vy` (R97). -/
def execSeReg (x y : Reg) (s : State) : Out := s.skipWhen (s.getV x == s.getV y)

/-- `SNE Vx, Vy` (R98). -/
def execSneReg (x y : Reg) (s : State) : Out := s.skipWhen (s.getV x != s.getV y)

end Sys2Proof.Machine
end

