-- ==== Sys2Proof/Machine/IndexMemory.lean ====
section
/-! DEFINITION. The index register, stores and loads (43_index_memory.md R130 to R136). The base `I` is never modified by a
memory access (R131), and no instruction here writes `VF` as a flag. -/

namespace Sys2Proof.Machine

/-- `LD I, nnn` (R130). -/
def execLdI (nnn : Addr12) (s : State) : Out := (s.advance.setI (zext16 nnn)).complete

/-- `ADD I, Vx` (R132): modulo 65536, no flag. -/
def execAddI (x : Reg) (s : State) : Out := (s.advance.setI (s.i + zext16 (s.getV x))).complete

/-- `LD F, Vx` (R133): an address only; no memory is touched. -/
def execLdFont (x : Reg) (s : State) : Out := (s.advance.setI (fontAddress (s.getV x))).complete

/-- A store instruction: the whole range is checked, then the bytes go to `I`, `I + 1`, ... (R39, R134, R135). -/
def State.storeAtI (s : State) (bs : List Byte) : Out :=
  s.guarded s.base bs.length (s.advance.storeBytes s.base bs).complete

/-- `LD B, Vx` (R134). -/
def execLdBcd (x : Reg) (s : State) : Out := s.storeAtI (bcdDigits (s.getV x))

/-- `LD [I], Vx` (R135). -/
def execStoreRegs (x : Reg) (s : State) : Out := s.storeAtI (s.regRange x)

/-- `LD Vx, [I]` (R136). -/
def execLoadRegs (x : Reg) (s : State) : Out :=
  s.guarded s.base (rangeCount x) (s.advance.setRange x (fun k => s.readByte (s.base + k))).complete

end Sys2Proof.Machine
end

