-- ==== Sys2Proof/Machine/KeysTimers.lean ====
section
/-! DEFINITION. The key and timer instructions (45_keys_timers.md R150 to R156). -/

namespace Sys2Proof.Machine

/-- `SKP Vx` (R150). -/
def execSkp (x : Reg) (s : State) : Out := s.skipWhen (s.keyPressed (keyIndex (s.getV x)))

/-- `SKNP Vx` (R151). -/
def execSknp (x : Reg) (s : State) : Out := s.skipWhen (!s.keyPressed (keyIndex (s.getV x)))

/-- `LD Vx, K` (R153): with no key pressed nothing changes, `pc` included, and the outcome is `AwaitKey`; the next `Step`
executes it again. -/
def execLdKey (x : Reg) (s : State) : Out :=
  match s.anyKey with
  | none => .next (s.setReply .awaitKey)
  | some k => s.result x (BitVec.ofNat 8 k)

/-- `LD Vx, DT` (R154). -/
def execLdFromDT (x : Reg) (s : State) : Out := s.result x s.dt

/-- `LD DT, Vx` (R155). -/
def execLdToDT (x : Reg) (s : State) : Out := (s.advance.setDt (s.getV x)).complete

/-- `LD ST, Vx` (R156). -/
def execLdToST (x : Reg) (s : State) : Out := (s.advance.setSt (s.getV x)).complete

end Sys2Proof.Machine
end

