-- ==== Sys2Proof/Machine/Cycle.lean ====
section
/-! DEFINITION. The fetch-decode-execute cycle (40_step_cycle.md R70 to R82) and the host operations (60_exceptions.md R172,
R177, R179; 70_reset_and_hazards.md R190, R192). Step.lean only calls what stands here. -/

namespace Sys2Proof.Machine

/-- Phase 1: the two bytes at `pc` (R73). -/
def State.fetchBytes (s : State) : List Byte := s.readBytes s.pc.toNat 2

/-- The word `MEM[a] ++ MEM[a+1]` at `pc`, big-endian (R33, R73). -/
def State.fetchWord (s : State) : Word := wordOfBytes (s.readByte s.pc.toNat) (s.readByte (s.pc.toNat + 1))

/-- Phases 3 and 4: decode, then execute; an unknown opcode only advances `pc` and is reported (R75, R76, R78). -/
def State.decodeExecute (s : State) : Out :=
  match decodeBytes s.fetchBytes with
  | .ok (i, _) => exec i s
  | .error _ => .next (s.advance.setReply (.unknown s.fetchWord s.pc))

/-- `Step(KEYS, RAND)` (R80), its inputs standing in `keys` and `rand`: status check (R72), fetch bounds (R73), decode,
execute, in this order (R79). -/
def State.engineStep (s : State) : Out :=
  match s.status with
  | .notLoaded => .next (s.setReply .refused)
  | .halted => .next (s.setReply (.fatal s.err))
  | .ready => s.guarded s.pc.toNat 2 s.decodeExecute

/-- A timer decremented by 1, or left at 0 (R171, R172). -/
def countDown (b : Byte) : Byte := if b = 0 then 0 else b - 1

/-- `Tick()` (R172): both timers, each on its own; accepted in every `STATUS` (D24). -/
def State.tick (s : State) : State := (s.setDt (countDown s.dt)).setSt (countDown s.st)

/-- `Reset()` (R190): every element of the block's state at its reset value. The inputs, the list of host operations and the
draw counter are not the block's and stay. -/
def State.doReset (s : State) : State :=
  { State.reset with keys := s.keys, rand := s.rand, hostOps := s.hostOps, draws := s.draws }

/-- `Load(P, len)` (R192): `Reset`, the size check, then the bytes in file order from `PROG_BASE` on (of R27, the
program bytes). -/
def State.doLoad (s : State) (program : List Byte) : State :=
  if programFits program then
    { s.doReset.storeBytes Config.progBase program with status := .ready, reply := .loadOk }
  else s.doReset.setReply .loadFailed

/-- One host operation (R177). -/
def State.perform (s : State) : HostOp → Out
  | .reset => .next s.doReset
  | .load program => .next (s.doLoad program)
  | .step keys rand => State.engineStep { s with keys := keys, rand := rand }
  | .tick => .next (s.tick.setReply .nothing)
  | .snapshot => .next (s.setReply (.frame s.fb))
  | .getDelay => .next (s.setReply (.value s.dt))
  | .getSound => .next (s.setReply (.value s.st))
  | .setDelay value => .next ((s.setDt value).setReply .nothing)
  | .setSound value => .next ((s.setSt value).setReply .nothing)

/-- Inputs for a `Step` that no listed operation gives: the next free values (log 1). -/
def State.drawInputs (s : State) : State :=
  { s with keys := Config.freeKeys s.draws, rand := Config.freeRand s.draws, draws := s.draws + 1 }

/-- The next host operation: the oldest listed one, or, where none is listed, a `Step` with free inputs (R176; log 2). -/
def State.nextOperation (s : State) : Out :=
  match s.hostOps with
  | [] => s.drawInputs.engineStep
  | op :: rest => State.perform { s with hostOps := rest } op

/-- Where the next fetch is made: at `pc` if two bytes exist there, else at `PROG_BASE`. -/
def State.fetchPlace (s : State) : Pc := if beyondMemory s.pc.toNat 2 then BitVec.ofNat _ Config.progBase else s.pc

/-- A program word put where the next fetch finds it, and the engine made ready to run it at the very next step: what `Load`
would have done (log 4). -/
def State.placeWord (s : State) (ir : Word) : State :=
  { s.storeBytes s.fetchPlace.toNat (wordBytes ir) with
    pc := s.fetchPlace, status := .ready, err := .noError, hostOps := .step s.keys s.rand :: s.hostOps }

end Sys2Proof.Machine
end

