-- ==== Sys2Proof/Safety.lean ====
section
/-! DEFINITION. The terms claims use: the invariants of the block, the parts of its state an instruction may or may not
change (10_state.md R23), the fatal error it raises (60_exceptions.md R160), and when a run has ended (40_step_cycle.md R82). Nothing here takes part in
a step. -/

namespace Sys2Proof.Machine

/-- The invariant of memory and status: memory is in canonical form, and `STATUS = HALTED` if and only if `ERR` is not
`NoError` (R21). -/
abbrev State.Inv (s : State) : Prop :=
  Memory.wf s.mem = true ∧ (s.status = .halted ↔ s.err ≠ .noError)

/-- The invariant of control flow: `pc` is at most 0x10FE, the largest value `Bnnn` gives (R13, R94), and every stack entry is
an address just after a fetched instruction or the reset 0, so at most 0xFFF (R15, R74). -/
abbrev State.PcBounded (s : State) : Prop :=
  s.pc.toNat ≤ 0x10FE ∧ ∀ k : Fin 16, s.stack[k].toNat ≤ 0xFFF

/-- The parts of the block's state other than `V`, `pc`, `STATUS` and `ERR`, by the columns of R23's matrix. -/
inductive Part where
  | index
  | memory
  | callStack
  | display
  | delayTimer
  | soundTimer
  deriving DecidableEq, Repr

/-- The part is the same in both states. Memory is compared byte by byte, at every address. -/
def Part.Same (p : Part) (s t : State) : Prop :=
  match p with
  | .index => t.i = s.i
  | .memory => ∀ a, t.readByte a = s.readByte a
  | .callStack => t.sp = s.sp ∧ t.stack = s.stack
  | .display => t.fb = s.fb
  | .delayTimer => t.dt = s.dt
  | .soundTimer => t.st = s.st

/-- From `s` to `t` no register changes but those of `regs`, and no part but those of `parts`. -/
structure Frames (s t : State) (regs : List Reg) (parts : List Part) : Prop where
  regs_same : ∀ r, r ∉ regs → t.getV r = s.getV r
  parts_same : ∀ p, p ∉ parts → p.Same s t

/-- `STATUS` and `ERR` are unchanged: no fatal error was taken. -/
structure SameEngine (s t : State) : Prop where
  status_same : t.status = s.status
  err_same : t.err = s.err

/-- The model's own fields are unchanged, but for `reply`. -/
structure SameHost (s t : State) : Prop where
  keys_same : t.keys = s.keys
  rand_same : t.rand = s.rand
  hostOps_same : t.hostOps = s.hostOps
  draws_same : t.draws = s.draws

/-- The registers the matrix of R23 lets an instruction write. -/
def regsWritten : Instr → List Reg
  | .cls | .ret | .jp _ | .call _ | .seByte _ _ | .sneByte _ _ | .seReg _ _ | .sneReg _ _ => []
  | .ldByte x _ | .addByte x _ | .ldReg x _ | .orReg x _ | .andReg x _ | .xorReg x _ | .rnd x _ => [x]
  | .addReg x _ | .subReg x _ | .shr x _ | .subnReg x _ | .shl x _ => [x, vf]
  | .ldI _ | .jpV0 _ | .skp _ | .sknp _ => []
  | .drw _ _ _ => [vf]
  | .ldFromDT x | .ldKey x => [x]
  | .ldToDT _ | .ldToST _ | .addI _ | .ldFont _ | .ldBcd _ | .storeRegs _ => []
  | .loadRegs x => (List.finRange 16).filter (fun r => r ≤ x)

/-- The parts the matrix of R23 lets an instruction write. -/
def partsWritten : Instr → List Part
  | .ret | .call _ => [.callStack]
  | .cls | .drw _ _ _ => [.display]
  | .ldI _ | .addI _ | .ldFont _ => [.index]
  | .ldToDT _ => [.delayTimer]
  | .ldToST _ => [.soundTimer]
  | .ldBcd _ | .storeRegs _ => [.memory]
  | .jp _ | .seByte _ _ | .sneByte _ _ | .seReg _ _ | .sneReg _ _ | .ldByte _ _ | .addByte _ _ | .ldReg _ _
  | .orReg _ _ | .andReg _ _ | .xorReg _ _ | .rnd _ _ | .addReg _ _ | .subReg _ _ | .shr _ _ | .subnReg _ _
  | .shl _ _ | .jpV0 _ | .skp _ | .sknp _ | .ldFromDT _ | .ldKey _ | .loadRegs _ => []

/-- The bytes of `MEM` an instruction's data access touches: `I .. I + dataCount - 1` (R39). -/
def dataCount : Instr → Nat
  | .drw _ _ n => n.toNat
  | .ldBcd _ => 3
  | .storeRegs x | .loadRegs x => rangeCount x
  | .cls | .ret | .jp _ | .call _ | .seByte _ _ | .sneByte _ _ | .seReg _ _ | .sneReg _ _ | .ldByte _ _ | .addByte _ _
  | .ldReg _ _ | .orReg _ _ | .andReg _ _ | .xorReg _ _ | .rnd _ _ | .addReg _ _ | .subReg _ _ | .shr _ _
  | .subnReg _ _ | .shl _ _ | .ldI _ | .jpV0 _ | .skp _ | .sknp _ | .ldFromDT _ | .ldKey _ | .ldToDT _ | .ldToST _
  | .addI _ | .ldFont _ => 0

/-- The fatal error the instruction raises in a state, or `noError` (R160, R166): no instruction has two checks of its own. -/
def fatalError (i : Instr) (s : State) : Err :=
  match i with
  | .call _ => if s.sp.val = Config.stackDepth then .stackOverflow else .noError
  | .ret => if s.sp.val = 0 then .stackUnderflow else .noError
  | i => if beyondMemory s.base (dataCount i) then .addressOutOfBounds else .noError

/-- The state a fatal error leaves (R164): the entry state with `STATUS` halted, `ERR` the error, and that outcome. -/
def State.halted (s : State) (e : Err) : State := { s with status := .halted, err := e, reply := .fatal e }

/-- At `s` the next host operation is a `Step`, and `u` is `s` with its inputs in place: either the oldest listed operation is
a `step`, or none is listed and the inputs are free (log 2). -/
inductive StartsStep (s u : State) : Prop where
  | listed (keys : BitVec 16) (rand : Byte) (rest : List HostOp) (next_op : s.hostOps = .step keys rand :: rest)
      (inputs : u = { s with keys := keys, rand := rand, hostOps := rest })
  | free (none_listed : s.hostOps = []) (inputs : u = s.drawInputs)

/-- The run has ended (R82): the engine has halted, or the instruction at `pc` is a jump to itself. -/
def State.Ended (s : State) : Prop :=
  s.status = .halted ∨
    ¬ beyondMemory s.pc.toNat 2 ∧ ∃ nnn, decodeWord s.fetchWord = .ok (.jp nnn) ∧ zext16 nnn = s.pc

/-- Sprite bit of the screen pixel `(r, c)` for `Dxyn` at start column `x0`, start row `y0`, `n` rows from `I` on: the pixel is
`dr` rows below and `dc` columns right of the start, both modulo the screen, and bit `7 - dc` of byte `I + dr` is set
(44_display.md R142 to R144). -/
def State.spriteBit (s : State) (x0 y0 n : Nat) (r : Row) (c : Column) : Bool :=
  let dr := (r.val + 32 - y0 % 32) % 32
  let dc := (c.val + 64 - x0 % 64) % 64
  decide (dr < n) && decide (dc < 8) && (s.readByte (s.base + dr)).getLsbD (7 - dc)

/-- Some pixel that is set in `s` has its sprite bit set: a collision (R145). -/
def State.collides (s : State) (x0 y0 n : Nat) : Prop :=
  ∃ r c, s.pixel r c = true ∧ s.spriteBit x0 y0 n r c = true

end Sys2Proof.Machine
end

