-- ==== Sys2Proof/Certificates/Slice0/Obligations.lean ====
section
/-! DEFINITION. The statements for the provers. Each docstring names the rules of spec/ it formalises; where one rests on a
decision of the spec or on a choice of the model, it says so and names it. -/

open Sys2Proof Sys2Proof.Machine

/-! ### Encoding -/

/-- Words written out from the patterns of 30_encoding.md and the examples of its R63, and unknown words of its R56. -/
def Obligations.SpecWordsDecode : Prop :=
  decodeWord 0x00E0 = .ok .cls ∧ decodeWord 0x00EE = .ok .ret ∧ decodeWord 0x2300 = .ok (.call 0x300) ∧
  decodeWord 0x600A = .ok (.ldByte 0 0x0A) ∧ decodeWord 0x6105 = .ok (.ldByte 1 0x05) ∧
  decodeWord 0x8014 = .ok (.addReg 0 1) ∧ decodeWord 0xA300 = .ok (.ldI 0x300) ∧
  decodeWord 0xD125 = .ok (.drw 1 2 5) ∧ decodeWord 0xE1A1 = .ok (.sknp 1) ∧ decodeWord 0xF30A = .ok (.ldKey 3) ∧
  decodeWord 0xF265 = .ok (.loadRegs 2) ∧
  decodeWord 0x0000 = .error (.unknownOpcode 0x0000) ∧ decodeWord 0x01E0 = .error (.unknownOpcode 0x01E0) ∧
  decodeWord 0x5121 = .error (.unknownOpcode 0x5121) ∧ decodeWord 0x9AB3 = .error (.unknownOpcode 0x9AB3)

/-- Decoding the encoding of any instruction gives it back, from its word and from its bytes in front of any others. -/
def Obligations.DecodeInvertsEncode : Prop :=
  ∀ (i : Instr) (rest : List Byte),
    decodeWord (encode i) = .ok i ∧ decodeBytes (encodeBytes i ++ rest) = .ok (i, rest)

/-- Every word that decodes is the encoding of what it decodes to: no bit of a word is dropped. -/
def Obligations.EncodeInvertsDecode : Prop :=
  ∀ (w : Word) (i : Instr), decodeWord w = .ok i → encode i = w

/-- The two-level decoder accepts exactly the words some row of the opcode map selects (R54, R55; exact patterns: D10, C3). -/
def Obligations.DecoderAgreesWithOpcodeMap : Prop :=
  ∀ w : Word, ((∃ i, decodeWord w = .ok i) ↔ wordDefined w = true) ∧
    (wordDefined w = false → decodeWord w = .error (.unknownOpcode w))

/-- The 34 rows of the opcode map are mutually exclusive (R54, R60). -/
def Obligations.OpcodeMapIsUnambiguous : Prop :=
  opcodeMap.length = 34 ∧
  ∀ (w : Word) (r₁ r₂ : OpcodeRow), r₁ ∈ opcodeMap → r₂ ∈ opcodeMap →
    r₁.selects w = true → r₂.selects w = true → r₁ = r₂

/-- The unknown opcodes, family by family, as the table of R57 lists them (without its counts). -/
def Obligations.UnknownOpcodesByFamily : Prop :=
  ∀ w : Word, decodeWord w = .error (.unknownOpcode w) ↔
    (opField w = 0x0 ∧ w ≠ 0x00E0 ∧ w ≠ 0x00EE) ∨
    (opField w = 0x5 ∧ nField w ≠ 0x0) ∨
    (opField w = 0x8 ∧ nField w ∈ [0x8#4, 0x9#4, 0xA#4, 0xB#4, 0xC#4, 0xD#4, 0xF#4]) ∨
    (opField w = 0x9 ∧ nField w ≠ 0x0) ∨
    (opField w = 0xE ∧ kkField w ∉ [0x9E#8, 0xA1#8]) ∨
    (opField w = 0xF ∧ kkField w ∉ [0x07#8, 0x0A#8, 0x15#8, 0x18#8, 0x1E#8, 0x29#8, 0x33#8, 0x55#8, 0x65#8])

/-! ### The step cycle -/

/-- A `Step` of a ready engine on bytes that decode to `i` is `exec i` on the state with the step's inputs in place; nothing
else is added around it (R80; the list of host operations is the model's, log 2). -/
def Obligations.StepRunsDecodedInstruction : Prop :=
  ∀ (s u : State) (i : Instr), StartsStep s u → s.status = .ready → s.pc.toNat + 1 ≤ 4094 →
    decodeBytes [s.readByte s.pc.toNat, s.readByte (s.pc.toNat + 1)] = .ok (i, []) →
    step s = exec i u

/-- An unknown opcode is a no-op: `pc` advances by 2 and the word and its address are reported (R57, R78; the report is
decision D22, held in the model's field `reply`, log 3). -/
def Obligations.UnknownOpcodeOnlyAdvances : Prop :=
  ∀ (s u : State) (w : Word), StartsStep s u → s.status = .ready → s.pc.toNat + 1 ≤ 4094 →
    w = s.readByte s.pc.toNat ++ s.readByte (s.pc.toNat + 1) → decodeWord w = .error (.unknownOpcode w) →
    step s = .next { u with pc := s.pc + 2, reply := .unknown w s.pc }

/-- A fetch whose second byte would lie above `MEM_TOP` halts the engine with `AddressOutOfBounds` and changes nothing else
(R73, R164; decisions D4, D6). -/
def Obligations.FetchOutOfBoundsIsFatal : Prop :=
  ∀ s u : State, StartsStep s u → s.status = .ready → 4094 ≤ s.pc.toNat →
    step s = .next (u.halted .addressOutOfBounds)

/-- An engine that is not ready executes nothing: not loaded, the `Step` is refused; halted, it reports the error again
(R72, R167; decision D25; next states of the model, log 19). -/
def Obligations.UnreadyEngineExecutesNothing : Prop :=
  ∀ s u : State, StartsStep s u →
    (s.status = .notLoaded → step s = .next { u with reply := .refused }) ∧
    (s.status = .halted → step s = .next { u with reply := .fatal s.err })

/-- The block never stops the model: every instruction and every host operation answers a next state (R70, R81). -/
def Obligations.EveryOperationAnswersNext : Prop :=
  (∀ (i : Instr) (s : State), ∃ t, exec i s = .next t) ∧ ∀ s : State, ∃ t, step s = .next t

/-- Whatever the instruction, a fatal error leaves the entry state with only `STATUS`, `ERR` and the outcome changed, `pc` on
the failing instruction (R164, R77; decisions D5, D6). -/
def Obligations.FatalErrorIsPrecise : Prop :=
  ∀ (i : Instr) (s : State), fatalError i s ≠ .noError → exec i s = .next (s.halted (fatalError i s))

/-- Where no fatal error of R160's list applies, every instruction completes with `STATUS` and `ERR` unchanged and outcome
`Done`; only `Fx0A` with no key pressed waits instead, changing nothing (R71, R160, R166; the outcome is the model's field
`reply`, log 3). -/
def Obligations.NoOtherInstructionFails : Prop :=
  ∀ (i : Instr) (s : State), fatalError i s = .noError →
    ∃ t, exec i s = .next t ∧ SameEngine s t ∧
      (t.reply = .done ∨ (∃ x, i = .ldKey x) ∧ s.anyKey = none ∧ t = { s with reply := .awaitKey })

/-- No instruction writes a register or a part of the state that the access matrix does not give it (R23, which the spec
derives from the instruction rules; R11, R12, R14, R18). -/
def Obligations.AccessMatrixHolds : Prop :=
  ∀ (i : Instr) (s t : State), exec i s = .next t → Frames s t (regsWritten i) (partsWritten i)

/-- No instruction changes its own inputs, the host operations to come or the draw counter (model's fields, logs 1 and 2). -/
def Obligations.InstructionsLeaveHostFields : Prop :=
  ∀ (i : Instr) (s t : State), exec i s = .next t → SameHost s t

/-- Once a run has ended by R82's definition (the spec's decision D21), a `Step` changes no part of the block's state. -/
def Obligations.EndedRunStaysEnded : Prop :=
  ∀ s u : State, s.Ended → StartsStep s u →
    ∃ t, step s = .next t ∧ t.pc = s.pc ∧ Frames s t [] [] ∧ SameEngine s t ∧ t.Ended

/-- A word placed where the next fetch finds it is what the very next step runs (log 4). -/
def Obligations.PlacedWordRunsNext : Prop :=
  ∀ (s : State) (nbits w : Nat) (i : Instr), Memory.wf s.mem = true → decodeTableWord nbits w = some i →
    ∃ u, step (s.withFetchWord nbits w) = exec i u ∧ u.v = s.v ∧ u.i = s.i ∧ u.stack = s.stack ∧ u.sp = s.sp ∧
      u.fb = s.fb ∧ u.dt = s.dt ∧ u.st = s.st ∧ u.keys = s.keys ∧ u.rand = s.rand ∧ u.hostOps = s.hostOps

/-! ### Invariants -/

/-- Every step keeps memory canonical and `STATUS = HALTED` exactly when `ERR` is not `NoError` (R21; log 28). -/
def Obligations.StepKeepsInvariant : Prop :=
  ∀ s t : State, s.Inv → step s = .next t → t.Inv

/-- The state after reset meets that invariant. -/
def Obligations.ResetMeetsInvariant : Prop := State.reset.Inv

/-- Every step keeps `pc` at or below 0x10FE and every stack entry at or below 0xFFF, so `pc` never wraps (R13, which the spec
derives from R38 and R73; decision D11). -/
def Obligations.StepKeepsPcBound : Prop :=
  ∀ s t : State, s.PcBounded → step s = .next t → t.PcBounded

/-- The state after reset meets that bound. -/
def Obligations.ResetMeetsPcBound : Prop := State.reset.PcBounded

/-- What reset leaves (R26, R190; with it `pc`, `SP`, `STATUS`, `ERR` and the font, which R27 asks of every model): decision D18's zeros, and D29's font, which is general knowledge (GK1; log 5, log 6). -/
def Obligations.ResetValues : Prop :=
  (∀ r, State.reset.getV r = 0) ∧ State.reset.i = 0 ∧ State.reset.pc = 0x200 ∧
  (∀ a, a < 80 → State.reset.readByte a = Config.font.getD a 0) ∧
  (∀ a, 80 ≤ a → State.reset.readByte a = 0) ∧
  (∀ k : Fin 16, State.reset.stack[k] = 0) ∧ State.reset.sp = 0 ∧ (∀ r c, State.reset.pixel r c = false) ∧
  State.reset.dt = 0 ∧ State.reset.st = 0 ∧ State.reset.status = .notLoaded ∧ State.reset.err = .noError

/-! ### Control flow -/

/-- `1nnn` (41_flow.md section 2): the jump itself always succeeds, and a target where no two bytes exist fails at the next
fetch (that this is `AddressOutOfBounds` with `pc` kept is decisions D4 and D6, log 10; the outcome and the next `Step` are
said in the model's fields `reply` and `hostOps`, logs 3 and 2). -/
def Obligations.JumpGoesToTarget : Prop :=
  ∀ (nnn : Addr12) (s : State),
    encode (.jp nnn) &&& 0xF000 = 0x1000 ∧
    ∃ t, exec (.jp nnn) s = .next t ∧ t.pc.toNat = nnn.toNat ∧ t.reply = .done ∧ Frames s t [] [] ∧ SameEngine s t ∧
      (s.status = .ready → 4094 ≤ nnn.toNat →
        ∀ u, StartsStep t u → step t = .next (u.halted .addressOutOfBounds))

/-- `2nnn` (41_flow.md section 2): the address of the next instruction is pushed, no other entry changes, and `pc` goes to
`nnn`; with sixteen entries in use, `StackOverflow` (decisions D2, D3, D6, D11). -/
def Obligations.CallPushesReturnAddress : Prop :=
  ∀ (nnn : Addr12) (s : State),
    (s.sp.val < 16 → ∃ t, exec (.call nnn) s = .next t ∧ t.pc.toNat = nnn.toNat ∧ t.sp.val = s.sp.val + 1 ∧
      (∀ k : Fin 16, t.stack[k] = if k.val = s.sp.val then s.pc + 2 else s.stack[k]) ∧
      Frames s t [] [.callStack] ∧ SameEngine s t) ∧
    (s.sp.val = 16 → exec (.call nnn) s = .next (s.halted .stackOverflow))

/-- `00EE` (41_flow.md section 2): `pc` is the most recent entry as it stands, which stays as a dead entry; with no entry,
`StackUnderflow` (decisions D3, D6). -/
def Obligations.ReturnPopsReturnAddress : Prop :=
  ∀ s : State,
    (∀ k : Fin 16, s.sp.val = k.val + 1 → ∃ t, exec .ret s = .next t ∧ t.pc = s.stack[k] ∧ t.sp.val = k.val ∧
      t.stack = s.stack ∧ Frames s t [] [.callStack] ∧ SameEngine s t) ∧
    (s.sp.val = 0 → exec .ret s = .next (s.halted .stackUnderflow))

/-- `Bnnn` (41_flow.md section 2): the exact sum, not masked, and a target where no two bytes exist fails at the next fetch
(that this is `AddressOutOfBounds` with `pc` kept is decisions D4 and D6, log 10; the outcome and the next `Step` are said in
the model's fields `reply` and `hostOps`, logs 3 and 2). -/
def Obligations.JumpV0AddsRegister : Prop :=
  ∀ (nnn : Addr12) (s : State),
    encode (.jpV0 nnn) &&& 0xF000 = 0xB000 ∧
    ∃ t, exec (.jpV0 nnn) s = .next t ∧ t.pc.toNat = nnn.toNat + (s.getV 0).toNat ∧ t.reply = .done ∧
      Frames s t [] [] ∧ SameEngine s t ∧
      (s.status = .ready → 4094 ≤ nnn.toNat + (s.getV 0).toNat →
        ∀ u, StartsStep t u → step t = .next (u.halted .addressOutOfBounds))

/-- `3xkk` and `4xkk` (R95, R96): a skip ends at `a + 4`, no skip at `a + 2`. -/
def Obligations.SkipOnByte : Prop :=
  ∀ (x : Reg) (kk : Byte) (s : State),
    encode (.seByte x kk) &&& 0xF000 = 0x3000 ∧ encode (.sneByte x kk) &&& 0xF000 = 0x4000 ∧
    (∃ t, exec (.seByte x kk) s = .next t ∧ t.pc = (if s.getV x = kk then s.pc + 4 else s.pc + 2) ∧
      Frames s t [] [] ∧ SameEngine s t) ∧
    (∃ t, exec (.sneByte x kk) s = .next t ∧ t.pc = (if s.getV x = kk then s.pc + 2 else s.pc + 4) ∧
      Frames s t [] [] ∧ SameEngine s t)

/-- `5xy0` and `9xy0` (R97, R98). -/
def Obligations.SkipOnRegister : Prop :=
  ∀ (x y : Reg) (s : State),
    encode (.seReg x y) &&& 0xF00F = 0x5000 ∧ encode (.sneReg x y) &&& 0xF00F = 0x9000 ∧
    (∃ t, exec (.seReg x y) s = .next t ∧ t.pc = (if s.getV x = s.getV y then s.pc + 4 else s.pc + 2) ∧
      Frames s t [] [] ∧ SameEngine s t) ∧
    (∃ t, exec (.sneReg x y) s = .next t ∧ t.pc = (if s.getV x = s.getV y then s.pc + 2 else s.pc + 4) ∧
      Frames s t [] [] ∧ SameEngine s t)

/-- Call and return are symmetric, for stack depths up to capacity (41_flow.md section 4): a `00EE` executed later, in any state
with the `SP` and the entry the `2nnn` left, whatever the other entries hold, goes to the instruction after the `2nnn` and
restores `SP` (the array with its count is decision D3, log 25; that `a + 2` is pushed is decision D11, log 14). -/
def Obligations.CallThenReturnRestores : Prop :=
  ∀ (nnn : Addr12) (s : State), s.sp.val < 16 →
    ∃ t, exec (.call nnn) s = .next t ∧ t.stack.getD s.sp.val 0 = s.pc + 2 ∧ t.sp.val = s.sp.val + 1 ∧
      ∀ u : State, u.sp = t.sp → u.stack.getD s.sp.val 0 = s.pc + 2 →
        ∃ w, exec .ret u = .next w ∧ w.pc = s.pc + 2 ∧ w.sp = s.sp

/-! ### Registers and arithmetic -/

/-- `6xkk` (R110). -/
def Obligations.LoadImmediate : Prop :=
  ∀ (x : Reg) (kk : Byte) (s : State),
    encode (.ldByte x kk) &&& 0xF000 = 0x6000 ∧
    ∃ t, exec (.ldByte x kk) s = .next t ∧ t.getV x = kk ∧ t.pc = s.pc + 2 ∧ Frames s t [x] [] ∧ SameEngine s t

/-- `7xkk` (R112): modulo 256, and no flag. -/
def Obligations.AddImmediate : Prop :=
  ∀ (x : Reg) (kk : Byte) (s : State),
    encode (.addByte x kk) &&& 0xF000 = 0x7000 ∧
    ∃ t, exec (.addByte x kk) s = .next t ∧ (t.getV x).toNat = ((s.getV x).toNat + kk.toNat) % 256 ∧
      t.pc = s.pc + 2 ∧ Frames s t [x] [] ∧ SameEngine s t

/-- `8xy0` (R113). -/
def Obligations.CopyRegister : Prop :=
  ∀ (x y : Reg) (s : State),
    encode (.ldReg x y) &&& 0xF00F = 0x8000 ∧
    ∃ t, exec (.ldReg x y) s = .next t ∧ t.getV x = s.getV y ∧ t.pc = s.pc + 2 ∧ Frames s t [x] [] ∧ SameEngine s t

/-- `8xy1`, `8xy2`, `8xy3` (R114, R115, R122): bit by bit, and no flag. -/
def Obligations.LogicIsBitwise : Prop :=
  ∀ (x y : Reg) (s : State),
    encode (.orReg x y) &&& 0xF00F = 0x8001 ∧ encode (.andReg x y) &&& 0xF00F = 0x8002 ∧
    encode (.xorReg x y) &&& 0xF00F = 0x8003 ∧
    (∃ t, exec (.orReg x y) s = .next t ∧
      (∀ k, (t.getV x).getLsbD k = ((s.getV x).getLsbD k || (s.getV y).getLsbD k)) ∧
      t.pc = s.pc + 2 ∧ Frames s t [x] [] ∧ SameEngine s t) ∧
    (∃ t, exec (.andReg x y) s = .next t ∧
      (∀ k, (t.getV x).getLsbD k = ((s.getV x).getLsbD k && (s.getV y).getLsbD k)) ∧
      t.pc = s.pc + 2 ∧ Frames s t [x] [] ∧ SameEngine s t) ∧
    (∃ t, exec (.xorReg x y) s = .next t ∧
      (∀ k, (t.getV x).getLsbD k = ((s.getV x).getLsbD k ^^ (s.getV y).getLsbD k)) ∧
      t.pc = s.pc + 2 ∧ Frames s t [x] [] ∧ SameEngine s t)

/-- `8xy4` (R116): the sum modulo 256 and the carry, from the values on entry; where `x = F` the flag is what stays. -/
def Obligations.AddWithCarry : Prop :=
  ∀ (x y : Reg) (s : State),
    encode (.addReg x y) &&& 0xF00F = 0x8004 ∧
    ∃ t, exec (.addReg x y) s = .next t ∧
      (x ≠ vf → (t.getV x).toNat = ((s.getV x).toNat + (s.getV y).toNat) % 256) ∧
      t.getV vf = (if 255 < (s.getV x).toNat + (s.getV y).toNat then 1 else 0) ∧
      t.pc = s.pc + 2 ∧ Frames s t [x, vf] [] ∧ SameEngine s t

/-- `8xy5` and `8xy7` (42_alu.md section 4): the difference modulo 256, and 1 exactly where the minuend is strictly greater;
where `x = F` the flag is what stays (the order of the two writes is decision D9). -/
def Obligations.SubtractWithFlag : Prop :=
  ∀ (x y : Reg) (s : State),
    (∃ t, exec (.subReg x y) s = .next t ∧
      (x ≠ vf → (t.getV x).toNat = (256 + (s.getV x).toNat - (s.getV y).toNat) % 256) ∧
      t.getV vf = (if (s.getV x).toNat > (s.getV y).toNat then 1 else 0) ∧
      t.pc = s.pc + 2 ∧ Frames s t [x, vf] [] ∧ SameEngine s t) ∧
    (∃ t, exec (.subnReg x y) s = .next t ∧
      (x ≠ vf → (t.getV x).toNat = (256 + (s.getV y).toNat - (s.getV x).toNat) % 256) ∧
      t.getV vf = (if (s.getV y).toNat > (s.getV x).toNat then 1 else 0) ∧
      t.pc = s.pc + 2 ∧ Frames s t [x, vf] [] ∧ SameEngine s t)

/-- `8xy6` (42_alu.md section 5): `VF` is bit 0 and `V[x]` is halved; where `x = F` it ends as 0 (decision D9). The field `y`
is ignored. -/
def Obligations.ShiftRight : Prop :=
  ∀ (x y : Reg) (s : State),
    ∃ t, exec (.shr x y) s = .next t ∧
      (x ≠ vf → (t.getV x).toNat = (s.getV x).toNat / 2 ∧ (t.getV vf).toNat = (s.getV x).toNat % 2) ∧
      (x = vf → t.getV vf = 0) ∧
      t.pc = s.pc + 2 ∧ Frames s t [x, vf] [] ∧ SameEngine s t ∧ ∀ y', exec (.shr x y') s = exec (.shr x y) s

/-- `8xyE` (42_alu.md section 5): `VF` is bit 7 as 0 or 1 (decision D8, `SHL_FLAG_RAW` false) and `V[x]` is doubled modulo 256;
where `x = F` it ends as 2 or 0 (decision D9). The field `y` is ignored. -/
def Obligations.ShiftLeft : Prop :=
  ∀ (x y : Reg) (s : State),
    ∃ t, exec (.shl x y) s = .next t ∧
      (x ≠ vf → (t.getV x).toNat = (s.getV x).toNat * 2 % 256 ∧
        t.getV vf = (if 128 ≤ (s.getV x).toNat then 1 else 0)) ∧
      (x = vf → t.getV vf = (if 128 ≤ (s.getV x).toNat then 2 else 0)) ∧
      t.pc = s.pc + 2 ∧ Frames s t [x, vf] [] ∧ SameEngine s t ∧ ∀ y', exec (.shl x y') s = exec (.shl x y) s

/-- `Cxkk` (42_alu.md section 6): the random input, under no law (decision D19), masked by `kk`; held in the model's field
`rand` (log 1), over every value of it. -/
def Obligations.RandomIsMasked : Prop :=
  ∀ (x : Reg) (kk : Byte) (s : State),
    ∃ t, exec (.rnd x kk) s = .next t ∧
      (∀ k, (t.getV x).getLsbD k = (s.rand.getLsbD k && kk.getLsbD k)) ∧
      t.pc = s.pc + 2 ∧ Frames s t [x] [] ∧ SameEngine s t

/-! ### Index register and memory -/

/-- `Annn` (R130). -/
def Obligations.LoadIndex : Prop :=
  ∀ (nnn : Addr12) (s : State),
    encode (.ldI nnn) &&& 0xF000 = 0xA000 ∧
    ∃ t, exec (.ldI nnn) s = .next t ∧ t.i.toNat = nnn.toNat ∧ t.pc = s.pc + 2 ∧ Frames s t [] [.index] ∧ SameEngine s t

/-- `Fx1E` (43_index_memory.md section 2): modulo 65536, never 12 bits (decision D7), and no flag. -/
def Obligations.AddToIndex : Prop :=
  ∀ (x : Reg) (s : State),
    ∃ t, exec (.addI x) s = .next t ∧ t.i.toNat = (s.i.toNat + (s.getV x).toNat) % 65536 ∧
      t.pc = s.pc + 2 ∧ Frames s t [] [.index] ∧ SameEngine s t

/-- `Fx29` (43_index_memory.md section 2): five times the low digit of `V[x]` (decisions D15, D29). -/
def Obligations.FontDigitAddress : Prop :=
  ∀ (x : Reg) (s : State),
    ∃ t, exec (.ldFont x) s = .next t ∧ t.i.toNat = 5 * ((s.getV x).toNat % 16) ∧
      t.pc = s.pc + 2 ∧ Frames s t [] [.index] ∧ SameEngine s t

/-- `Fx33` (43_index_memory.md section 3): hundreds, tens and ones at `I`, `I+1`, `I+2`, no other byte; out of bounds, nothing
is stored (decisions D4 to D6; below 0x200 too, D17). -/
def Obligations.StoreDecimalDigits : Prop :=
  ∀ (x : Reg) (s : State), Memory.wf s.mem = true →
    (s.base + 2 ≤ 4094 → ∃ t, exec (.ldBcd x) s = .next t ∧
      (t.readByte s.base).toNat = (s.getV x).toNat / 100 ∧
      (t.readByte (s.base + 1)).toNat = (s.getV x).toNat / 10 % 10 ∧
      (t.readByte (s.base + 2)).toNat = (s.getV x).toNat % 10 ∧
      (∀ a, a < s.base ∨ s.base + 3 ≤ a → t.readByte a = s.readByte a) ∧
      t.pc = s.pc + 2 ∧ Frames s t [] [.memory] ∧ SameEngine s t) ∧
    (4094 < s.base + 2 → exec (.ldBcd x) s = .next (s.halted .addressOutOfBounds))

/-- `Fx55` (43_index_memory.md section 3): `V[k]` at `I + k` for `k` up to `x`, no other byte, `I` unchanged; out of bounds,
nothing is stored (decisions D4 to D6; below 0x200 too, D17). -/
def Obligations.StoreRegisters : Prop :=
  ∀ (x : Reg) (s : State), Memory.wf s.mem = true →
    (s.base + x.val ≤ 4094 → ∃ t, exec (.storeRegs x) s = .next t ∧
      (∀ k : Reg, k ≤ x → t.readByte (s.base + k.val) = s.getV k) ∧
      (∀ a, a < s.base ∨ s.base + x.val + 1 ≤ a → t.readByte a = s.readByte a) ∧
      t.pc = s.pc + 2 ∧ Frames s t [] [.memory] ∧ SameEngine s t) ∧
    (4094 < s.base + x.val → exec (.storeRegs x) s = .next (s.halted .addressOutOfBounds))

/-- `Fx65` (43_index_memory.md section 4): the byte at `I + k` into `V[k]` for `k` up to `x`, the registers above and `I`
unchanged; out of bounds, no register changes (decisions D4 to D6). -/
def Obligations.LoadRegisters : Prop :=
  ∀ (x : Reg) (s : State),
    (s.base + x.val ≤ 4094 → ∃ t, exec (.loadRegs x) s = .next t ∧
      (∀ k : Reg, t.getV k = if k ≤ x then s.readByte (s.base + k.val) else s.getV k) ∧
      t.pc = s.pc + 2 ∧ Frames s t ((List.finRange 16).filter (fun r => r ≤ x)) [] ∧ SameEngine s t) ∧
    (4094 < s.base + x.val → exec (.loadRegs x) s = .next (s.halted .addressOutOfBounds))

/-- `Fx55` and then `Fx65` with the same `x` and `I` restores the registers; `Fx33` and then `F265` at the same `I` leaves the
three digits in `V0`, `V1`, `V2` (43_index_memory.md section 5, derived there). -/
def Obligations.StoreThenLoadRestores : Prop :=
  ∀ (x : Reg) (s : State), Memory.wf s.mem = true →
    (s.base + x.val ≤ 4094 → ∃ t, exec (.storeRegs x) s = .next t ∧
      ∀ u : State, u.mem = t.mem → u.i = s.i →
        ∃ w, exec (.loadRegs x) u = .next w ∧ ∀ k : Reg, k ≤ x → w.getV k = s.getV k) ∧
    (s.base + 2 ≤ 4094 → ∃ t, exec (.ldBcd x) s = .next t ∧
      ∀ u : State, u.mem = t.mem → u.i = s.i →
        ∃ w, exec (.loadRegs 2) u = .next w ∧
          (s.getV x).toNat = 100 * (w.getV 0).toNat + 10 * (w.getV 1).toNat + (w.getV 2).toNat ∧
          (w.getV 1).toNat ≤ 9 ∧ (w.getV 2).toNat ≤ 9)

/-- A store is seen by the very next fetch (20_memory.md section 12, derived there): where `Fx55` stores over the instruction
that follows it, the word then fetched is the two registers stored. -/
def Obligations.StoreIsSeenByNextFetch : Prop :=
  ∀ (x : Reg) (s : State), Memory.wf s.mem = true → 1 ≤ x.val → s.base + x.val ≤ 4094 → s.base = s.pc.toNat + 2 →
    ∃ t, exec (.storeRegs x) s = .next t ∧ t.pc.toNat = s.base ∧ t.fetchWord = s.getV 0 ++ s.getV 1

/-! ### Framebuffer -/

/-- `00E0` (R141). -/
def Obligations.ClearZerosEveryPixel : Prop :=
  ∀ s : State,
    encode .cls &&& 0xFFFF = 0x00E0 ∧
    ∃ t, exec .cls s = .next t ∧ (∀ r c, t.pixel r c = false) ∧ t.pc = s.pc + 2 ∧ Frames s t [] [.display] ∧ SameEngine s t

/-- `Dxyn` (44_display.md section 3): the row by row, bit by bit drawing is, pixel by pixel, the XOR of the old screen with the
sprite laid on the torus, and `VF` is 1 exactly where a set pixel is unset; out of bounds, nothing is drawn (decisions D4 to
D6; the bit order is D28, general knowledge GK2, log 7). -/
def Obligations.DrawIsXorOnTorus : Prop :=
  ∀ (x y : Reg) (n : Nibble) (s : State),
    (s.base + n.toNat ≤ 4095 ∨ n = 0 → ∃ t, exec (.drw x y n) s = .next t ∧
      (∀ r c, t.pixel r c = (s.pixel r c ^^ s.spriteBit (s.getV x).toNat (s.getV y).toNat n.toNat r c)) ∧
      (s.collides (s.getV x).toNat (s.getV y).toNat n.toNat → t.getV vf = 1) ∧
      (¬ s.collides (s.getV x).toNat (s.getV y).toNat n.toNat → t.getV vf = 0) ∧
      t.pc = s.pc + 2 ∧ Frames s t [vf] [.display] ∧ SameEngine s t) ∧
    (4095 < s.base + n.toNat ∧ n ≠ 0 → exec (.drw x y n) s = .next (s.halted .addressOutOfBounds))

/-- Drawing the same sprite twice at the same coordinates restores the screen; where the area was clear before, the first draw
reports no collision and the second one reports it exactly if the first set a pixel (R145's property, C12). -/
def Obligations.DrawTwiceRestoresScreen : Prop :=
  ∀ (x y : Reg) (n : Nibble) (s : State), x ≠ vf → y ≠ vf → s.base + n.toNat ≤ 4095 →
    ∃ t u, exec (.drw x y n) s = .next t ∧ exec (.drw x y n) t = .next u ∧ u.fb = s.fb ∧
      (¬ s.collides (s.getV x).toNat (s.getV y).toNat n.toNat →
        t.getV vf = 0 ∧
        ((∃ r c, s.spriteBit (s.getV x).toNat (s.getV y).toNat n.toNat r c = true) ↔ u.getV vf = 1))

/-- `Dxy0` (44_display.md section 3, decision D16): nothing is drawn or checked, wherever `I` points, and `VF` is 0. -/
def Obligations.DrawOfNoRows : Prop :=
  ∀ (x y : Reg) (s : State),
    ∃ t, exec (.drw x y 0) s = .next t ∧ t.getV vf = 0 ∧ t.pc = s.pc + 2 ∧ Frames s t [vf] [] ∧ SameEngine s t

/-! ### Keys and timers -/

/-- `Ex9E` and `ExA1` (45_keys_timers.md section 2): the key is the low digit of `V[x]` (decision D14); `KEYS` is the model's
field `keys` (log 1), over every value of it. -/
def Obligations.SkipOnKey : Prop :=
  ∀ (x : Reg) (s : State),
    (∃ t, exec (.skp x) s = .next t ∧
      t.pc = (if s.keys.getLsbD ((s.getV x).toNat % 16) = true then s.pc + 4 else s.pc + 2) ∧
      Frames s t [] [] ∧ SameEngine s t) ∧
    (∃ t, exec (.sknp x) s = .next t ∧
      t.pc = (if s.keys.getLsbD ((s.getV x).toNat % 16) = true then s.pc + 2 else s.pc + 4) ∧
      Frames s t [] [] ∧ SameEngine s t)

/-- `Fx0A` (45_keys_timers.md section 3): the lowest pressed key completes it (decision D13); with none, nothing changes and
the outcome is `AwaitKey` (decision D12; the model's fields `keys` and `reply`, logs 1 and 3). -/
def Obligations.KeyWaitTakesLowestKey : Prop :=
  ∀ (x : Reg) (s : State),
    (∀ k, k < 16 → s.keys.getLsbD k = true → (∀ j, j < k → s.keys.getLsbD j = false) →
      ∃ t, exec (.ldKey x) s = .next t ∧ (t.getV x).toNat = k ∧ t.pc = s.pc + 2 ∧ Frames s t [x] [] ∧ SameEngine s t) ∧
    (s.keys = 0 → exec (.ldKey x) s = .next { s with reply := .awaitKey })

/-- `Fx07` (R154). -/
def Obligations.ReadDelayTimer : Prop :=
  ∀ (x : Reg) (s : State),
    encode (.ldFromDT x) &&& 0xF0FF = 0xF007 ∧
    ∃ t, exec (.ldFromDT x) s = .next t ∧ t.getV x = s.dt ∧ t.pc = s.pc + 2 ∧ Frames s t [x] [] ∧ SameEngine s t

/-- `Fx15` and `Fx18` (R155, R156). -/
def Obligations.WriteTimers : Prop :=
  ∀ (x : Reg) (s : State),
    encode (.ldToDT x) &&& 0xF0FF = 0xF015 ∧ encode (.ldToST x) &&& 0xF0FF = 0xF018 ∧
    (∃ t, exec (.ldToDT x) s = .next t ∧ t.dt = s.getV x ∧ t.pc = s.pc + 2 ∧ Frames s t [] [.delayTimer] ∧
      SameEngine s t) ∧
    (∃ t, exec (.ldToST x) s = .next t ∧ t.st = s.getV x ∧ t.pc = s.pc + 2 ∧ Frames s t [] [.soundTimer] ∧
      SameEngine s t)

/-! ### Host operations -/

/-- `Tick` (60_exceptions.md section 7): each timer goes down by 1 or stays at 0, in every `STATUS` (decision D24), and nothing
else changes. -/
def Obligations.TickCountsDown : Prop :=
  ∀ (s : State) (rest : List HostOp), s.hostOps = .tick :: rest →
    ∃ t, step s = .next t ∧ t.dt.toNat = s.dt.toNat - 1 ∧ t.st.toNat = s.st.toNat - 1 ∧ t.pc = s.pc ∧
      Frames s t [] [.delayTimer, .soundTimer] ∧ SameEngine s t ∧ t.hostOps = rest

/-- A timer reads 0 after as many ticks as its value, and never goes below 0 (60_exceptions.md section 7): `k` listed ticks
take each timer down by `k`, or to 0. -/
def Obligations.TicksReachZero : Prop :=
  ∀ (k : Nat) (s : State) (rest : List HostOp), s.hostOps = List.replicate k .tick ++ rest →
    ∃ t, Sys2Proof.core.run k s = .next t ∧ t.dt.toNat = s.dt.toNat - k ∧ t.st.toNat = s.st.toNat - k ∧
      t.pc = s.pc ∧ t.hostOps = rest

/-- `DT` goes up only in a `set_delay` of the host or a `Fx15` (60_exceptions.md section 9, what R176 says a claim can rest on). -/
def Obligations.DelayTimerRisesOnlyWhenWritten : Prop :=
  ∀ s t : State, step s = .next t → s.dt.toNat < t.dt.toNat →
    (∃ b rest, s.hostOps = .setDelay b :: rest) ∨
    ∃ u x, StartsStep s u ∧ s.status = .ready ∧ decodeWord s.fetchWord = .ok (.ldToDT x)

/-- `Load` of a program that fits (70_reset_and_hazards.md section 2; decision D26): every program byte at its place, every
other byte and every other element at its reset value, and the engine ready. -/
def Obligations.LoadPlacesProgram : Prop :=
  ∀ (s : State) (program : List Byte) (rest : List HostOp), s.hostOps = .load program :: rest → program.length ≤ 3583 →
    ∃ t, step s = .next t ∧ (∀ k (h : k < program.length), t.readByte (0x200 + k) = program[k]) ∧
      (∀ a, a < 0x200 ∨ 0x200 + program.length ≤ a → t.readByte a = State.reset.readByte a) ∧
      t.status = .ready ∧ t.err = .noError ∧ t.pc = 0x200 ∧ Frames State.reset t [] [.memory] ∧
      t.reply = .loadOk ∧ t.hostOps = rest

/-- `Load` of a program that does not fit, and `Reset`, leave the reset state of the block (70_reset_and_hazards.md sections 1
and 2; decisions D18, D26). -/
def Obligations.FailedLoadAndResetLeaveReset : Prop :=
  ∀ (s : State) (rest : List HostOp),
    (∀ program : List Byte, s.hostOps = .load program :: rest → 3583 < program.length →
      step s = .next { State.reset with
        keys := s.keys, rand := s.rand, hostOps := rest, draws := s.draws, reply := .loadFailed }) ∧
    (s.hostOps = .reset :: rest →
      step s = .next { State.reset with keys := s.keys, rand := s.rand, hostOps := rest, draws := s.draws })

/-- The other host operations (60_exceptions.md section 9): a snapshot and the two reads change nothing and return what they
read; the two writes change one timer. -/
def Obligations.HostAccessors : Prop :=
  ∀ (s : State) (rest : List HostOp) (b : Byte),
    (s.hostOps = .snapshot :: rest → step s = .next { s with hostOps := rest, reply := .frame s.fb }) ∧
    (s.hostOps = .getDelay :: rest → step s = .next { s with hostOps := rest, reply := .value s.dt }) ∧
    (s.hostOps = .getSound :: rest → step s = .next { s with hostOps := rest, reply := .value s.st }) ∧
    (s.hostOps = .setDelay b :: rest → step s = .next { s with hostOps := rest, dt := b, reply := .nothing }) ∧
    (s.hostOps = .setSound b :: rest → step s = .next { s with hostOps := rest, st := b, reply := .nothing })
end

