-- ==== Sys2Proof/Laws/Decode.lean ====
section
/-! SUPPORT. The fields of the words the encoder forms (30_encoding.md R51, R52), and that a word is its two bytes (R33). -/

namespace Sys2Proof

/-- A slice that lies in the high part of a concatenation. -/
theorem extract_append_high {m n l : Nat} (a : BitVec m) (b : BitVec n) {at' k : Nat} (h : at' = n + k) :
    (a ++ b).extractLsb' at' l = a.extractLsb' k l := by
  subst h
  ext j hj
  rw [BitVec.getElem_extractLsb', BitVec.getElem_extractLsb', BitVec.getLsbD_append]
  have : ¬ n + k + j < n := by omega
  simp [this, show n + k + j - n = k + j by omega]

/-- A slice that lies in the low part of a concatenation. -/
theorem extract_append_low {m n l : Nat} (a : BitVec m) (b : BitVec n) {k : Nat} (hl : k + l ≤ n) :
    (a ++ b).extractLsb' k l = b.extractLsb' k l := by
  ext j hj
  rw [BitVec.getElem_extractLsb', BitVec.getElem_extractLsb', BitVec.getLsbD_append]
  have : k + j < n := by omega
  simp [this]

/-- The whole of a vector, as a slice. -/
@[simp] theorem extract_all {m : Nat} (a : BitVec m) : a.extractLsb' 0 m = a := by
  ext j hj; simp

@[simp] theorem regBits_toFin (x : Reg) : (regBits x).toFin = x := rfl

@[simp] theorem opField_formNNN (op : Nibble) (nnn : Addr12) : opField (formNNN op nnn) = op := by
  rw [opField, formNNN, extract_append_high (k := 0) _ _ rfl, extract_all]

@[simp] theorem nnnField_formNNN (op : Nibble) (nnn : Addr12) : nnnField (formNNN op nnn) = nnn := by
  rw [nnnField, formNNN, extract_append_low _ _ (by decide), extract_all]

@[simp] theorem opField_formXKK (op : Nibble) (x : Reg) (kk : Byte) : opField (formXKK op x kk) = op := by
  rw [opField, formXKK, extract_append_high (k := 4) _ _ rfl, extract_append_high (k := 0) _ _ rfl,
    extract_all]

@[simp] theorem xField_formXKK (op : Nibble) (x : Reg) (kk : Byte) : xField (formXKK op x kk) = x := by
  rw [xField, formXKK, extract_append_high (k := 0) _ _ rfl, extract_append_low _ _ (by decide), extract_all,
    regBits_toFin]

@[simp] theorem kkField_formXKK (op : Nibble) (x : Reg) (kk : Byte) : kkField (formXKK op x kk) = kk := by
  rw [kkField, formXKK, extract_append_low _ _ (by decide), extract_all]

@[simp] theorem opField_formXYN (op : Nibble) (x y : Reg) (n : Nibble) : opField (formXYN op x y n) = op := by
  rw [opField, formXYN, extract_append_high (k := 4) _ _ rfl, extract_append_high (k := 0) _ _ rfl,
    extract_all]

@[simp] theorem xField_formXYN (op : Nibble) (x y : Reg) (n : Nibble) : xField (formXYN op x y n) = x := by
  rw [xField, formXYN, extract_append_high (k := 0) _ _ rfl, extract_append_low _ _ (by decide), extract_all,
    regBits_toFin]

@[simp] theorem yField_formXYN (op : Nibble) (x y : Reg) (n : Nibble) : yField (formXYN op x y n) = y := by
  rw [yField, formXYN, extract_append_low _ _ (by decide), extract_append_high (k := 0) _ _ rfl, extract_all,
    regBits_toFin]

@[simp] theorem nField_formXYN (op : Nibble) (x y : Reg) (n : Nibble) : nField (formXYN op x y n) = n := by
  rw [nField, formXYN, extract_append_low _ _ (by decide), extract_append_low _ _ (by decide), extract_all]

@[simp] theorem opField_formX (op : Nibble) (x : Reg) (sub : Byte) : opField (formX op x sub) = op :=
  opField_formXKK op x sub

@[simp] theorem xField_formX (op : Nibble) (x : Reg) (sub : Byte) : xField (formX op x sub) = x :=
  xField_formXKK op x sub

@[simp] theorem kkField_formX (op : Nibble) (x : Reg) (sub : Byte) : kkField (formX op x sub) = sub :=
  kkField_formXKK op x sub

/-- A word is its two bytes, high byte first. -/
@[simp] theorem wordOfBytes_wordBytes (ir : Word) : wordOfBytes (ir.extractLsb' 8 8) (ir.extractLsb' 0 8) = ir := by
  refine BitVec.eq_of_getLsbD_eq fun j hj => ?_
  rw [wordOfBytes, BitVec.getLsbD_append]
  by_cases h : j < 8
  · simp [h]
  · simp [h, show j - 8 < 8 by omega, show 8 + (j - 8) = j by omega]

/-- Decoding two bytes is decoding their word. -/
theorem decodeBytes_two (hi lo : Byte) :
    decodeBytes [hi, lo] = (decodeWord (wordOfBytes hi lo)).map (fun i => (i, [])) := by
  simp only [decodeBytes]
  cases decodeWord (wordOfBytes hi lo) <;> rfl

/-- The front of a list of bytes decides. -/
theorem decodeBytes_wordBytes (ir : Word) (rest : List Byte) :
    decodeBytes (wordBytes ir ++ rest) = (decodeWord ir).map (fun i => (i, rest)) := by
  simp only [wordBytes, List.cons_append, List.nil_append, decodeBytes, wordOfBytes_wordBytes]
  cases decodeWord ir <;> rfl

end Sys2Proof
end

