-- ==== Sys2Proof/Laws/Display.lean ====
section
/-! SUPPORT. What drawing does to one pixel, one sprite bit and one sprite row (44_display.md R142 to R145). -/

namespace Sys2Proof.Machine

@[simp] theorem wrapRow_val (n : Nat) : (wrapRow n).val = n % 32 := rfl

@[simp] theorem wrapColumn_val (n : Nat) : (wrapColumn n).val = n % 64 := rfl

/-- Flipping a pixel changes that pixel only. -/
theorem framePixel_flipPixel (f : Frame) (r r' : Fin 32) (c c' : Fin 64) :
    framePixel (flipPixel f r c) r' c' = (framePixel f r' c' ^^ (decide (r' = r) && decide (c' = c))) := by
  unfold framePixel flipPixel
  by_cases h : r' = r
  · subst h
    simp [Fin.ext_iff, eq_comm]
  · have : r.val ≠ r'.val := fun e => h (Fin.ext e.symm)
    simp [h, this]

/-- The bit of a sprite row at start column `x0` that lands on screen column `c`, among its first `n` columns. -/
def rowBit (x0 : Nat) (s : Byte) (n : Nat) (c : Fin 64) : Bool :=
  decide ((c.val + 64 - x0 % 64) % 64 < n) && s.getLsbD (7 - (c.val + 64 - x0 % 64) % 64)

theorem rowBit_succ (x0 : Nat) (s : Byte) {n : Nat} (hn : n < 64) (c : Fin 64) :
    rowBit x0 s (n + 1) c = (rowBit x0 s n c || (decide (c = wrapColumn (x0 + n)) && s.getLsbD (7 - n))) := by
  have hc := c.isLt
  have he : c = wrapColumn (x0 + n) ↔ (c.val + 64 - x0 % 64) % 64 = n := by
    rw [Fin.ext_iff, wrapColumn_val]; omega
  unfold rowBit
  simp only [he]
  generalize (c.val + 64 - x0 % 64) % 64 = d
  by_cases h : d = n
  · subst h; simp
  · simp [h, show d < n + 1 ↔ d < n by omega]

/-- No earlier bit of the row lands on the column of the next one. -/
theorem rowBit_next (x0 : Nat) (s : Byte) {n : Nat} (hn : n < 64) : rowBit x0 s n (wrapColumn (x0 + n)) = false := by
  have : ((x0 + n) % 64 + 64 - x0 % 64) % 64 = n := by omega
  simp [rowBit, this]

/-- The first `n` bits of a sprite row: each flips its own pixel, and a collision is a set pixel among them. -/
theorem drawColumns_spec (p : Canvas) (x0 : Nat) (r : Fin 32) (s : Byte) {n : Nat} (hn : n ≤ 64) :
    let q := (List.range n).foldl (fun q col => q.drawBit r (wrapColumn (x0 + col)) (s.getLsbD (7 - col))) p
    (∀ r' c, framePixel q.fb r' c = (framePixel p.fb r' c ^^ (decide (r' = r) && rowBit x0 s n c))) ∧
      (q.collided = true ↔ p.collided = true ∨ ∃ c, framePixel p.fb r c = true ∧ rowBit x0 s n c = true) := by
  induction n with
  | zero => simp [rowBit]
  | succ n ih =>
    obtain ⟨hp, hc⟩ := ih (by omega)
    simp only [List.range_succ, List.foldl_append, List.foldl_cons, List.foldl_nil]
    generalize (List.range n).foldl (fun q col => q.drawBit r (wrapColumn (x0 + col)) (s.getLsbD (7 - col))) p = q at hp hc
    have hb := rowBit_next x0 s (n := n) (by omega)
    cases hbit : s.getLsbD (7 - n) with
    | false =>
      have e : ∀ c, rowBit x0 s (n + 1) c = rowBit x0 s n c := fun c => by
        rw [rowBit_succ x0 s (by omega) c]; simp [hbit]
      simp only [Canvas.drawBit, e]
      exact ⟨hp, hc⟩
    | true =>
      have e : ∀ c, rowBit x0 s (n + 1) c = (rowBit x0 s n c || decide (c = wrapColumn (x0 + n))) := fun c => by
        rw [rowBit_succ x0 s (by omega) c]; simp [hbit]
      simp only [Canvas.drawBit, if_true]
      constructor
      · intro r' c
        rw [framePixel_flipPixel, hp, e]
        by_cases hr : r' = r <;> by_cases h : c = wrapColumn (x0 + n)
        · subst h; simp [hr, hb]
        · simp [h]
        · simp [hr]
        · simp [hr]
      · rw [Bool.or_eq_true, hc, hp]
        simp only [decide_true, Bool.true_and, hb, Bool.xor_false, e, Bool.or_eq_true, decide_eq_true_eq]
        constructor
        · rintro ((h | ⟨c, h1, h2⟩) | h)
          · exact .inl h
          · exact .inr ⟨c, h1, .inl h2⟩
          · exact .inr ⟨_, h, .inr rfl⟩
        · rintro (h | ⟨c, h1, h2 | rfl⟩)
          · exact .inl (.inl h)
          · exact .inl (.inr ⟨c, h1, h2⟩)
          · exact .inr h1

/-- A sprite row: its eight pixels are XORed with its bits, no other pixel changes, and a collision is a set pixel under a set
bit. -/
theorem drawRow_spec (p : Canvas) (x0 : Nat) (r : Fin 32) (s : Byte) :
    (∀ r' c, framePixel (p.drawRow x0 r s).fb r' c = (framePixel p.fb r' c ^^ (decide (r' = r) && rowBit x0 s 8 c))) ∧
      ((p.drawRow x0 r s).collided = true ↔
        p.collided = true ∨ ∃ c, framePixel p.fb r c = true ∧ rowBit x0 s 8 c = true) :=
  drawColumns_spec p x0 r s (by decide)

end Sys2Proof.Machine
end

