-- ==== Sys2Proof/Laws/Memory.lean ====
section
/-! SUPPORT. The laws of memory: every operation keeps the canonical form, a read after a write to the same place gives the
byte written, and a write leaves every other place alone (20_memory.md R32). -/

namespace Sys2Proof.Machine

theorem Memory.wfFrom_cons {lo : Nat} {c : Host.Cell} {rest : List Host.Cell} :
    Memory.wfFrom lo (c :: rest) = true ↔
      lo ≤ c.1 ∧ c.1 < Config.memSize ∧ c.2 ≠ Memory.resetByte c.1 ∧ Memory.wfFrom (c.1 + 1) rest = true := by
  simp [Memory.wfFrom, and_assoc]

theorem Memory.wfFrom_mono {lo lo' : Nat} {m : List Host.Cell} (h : Memory.wfFrom lo m = true) (hl : lo' ≤ lo) :
    Memory.wfFrom lo' m = true := by
  cases m with
  | nil => rfl
  | cons c rest =>
    rw [Memory.wfFrom_cons] at h ⊢
    exact ⟨hl.trans h.1, h.2⟩

/-- Below the first listed address every byte is at its reset contents. -/
theorem Memory.read_below {lo a : Nat} {m : List Host.Cell} (h : Memory.wfFrom lo m = true) (ha : a < lo) :
    Memory.read m a = Memory.resetByte a := by
  induction m generalizing lo with
  | nil => rfl
  | cons c rest ih =>
    rw [Memory.wfFrom_cons] at h
    have : c.1 ≠ a := by omega
    simp [Memory.read, this, ih h.2.2.2 (by omega)]

theorem Memory.consCell_wf {lo a : Nat} {b : Byte} {rest : List Host.Cell} (hl : lo ≤ a) (ha : a < Config.memSize)
    (h : Memory.wfFrom (a + 1) rest = true) : Memory.wfFrom lo (Memory.consCell a b rest) = true := by
  unfold Memory.consCell
  split
  · exact Memory.wfFrom_mono h (by omega)
  · next hb => exact Memory.wfFrom_cons.2 ⟨hl, ha, hb, h⟩

theorem Memory.insert_wf {lo a : Nat} {b : Byte} {m : List Host.Cell} (hl : lo ≤ a) (ha : a < Config.memSize)
    (h : Memory.wfFrom lo m = true) : Memory.wfFrom lo (Memory.insert m a b) = true := by
  induction m generalizing lo with
  | nil => exact Memory.consCell_wf hl ha rfl
  | cons c rest ih =>
    obtain ⟨h1, h2, h3, h4⟩ := Memory.wfFrom_cons.1 h
    unfold Memory.insert
    split
    · next hlt => exact Memory.consCell_wf hl ha (Memory.wfFrom_cons.2 ⟨hlt, h2, h3, h4⟩)
    · split
      · next heq => exact Memory.consCell_wf hl ha (heq ▸ h4)
      · exact Memory.wfFrom_cons.2 ⟨h1, h2, h3, ih (by omega) h4⟩

/-- A write keeps the canonical form. -/
theorem Memory.write_wf {m : List Host.Cell} (h : Memory.wf m = true) (a : Nat) (b : Byte) :
    Memory.wf (Memory.write m a b) = true := by
  unfold Memory.write
  split
  · next ha => exact Memory.insert_wf (Nat.zero_le a) ha h
  · exact h

/-- Writing a list of bytes keeps the canonical form. -/
theorem Memory.writeList_wf {m : List Host.Cell} (h : Memory.wf m = true) (a : Nat) (bs : List Byte) :
    Memory.wf (Memory.writeList m a bs) = true := by
  induction bs generalizing m a with
  | nil => exact h
  | cons b bs ih => exact ih (Memory.write_wf h a b) (a + 1)

theorem Memory.read_consCell_same {lo a : Nat} {b : Byte} {rest : List Host.Cell} (h : Memory.wfFrom lo rest = true)
    (ha : a < lo) : Memory.read (Memory.consCell a b rest) a = b := by
  unfold Memory.consCell
  split
  · next hb => rw [Memory.read_below h ha, hb]
  · simp [Memory.read]

theorem Memory.read_consCell_other {a a' : Nat} {b : Byte} {rest : List Host.Cell} (h : a' ≠ a) :
    Memory.read (Memory.consCell a b rest) a' = Memory.read rest a' := by
  unfold Memory.consCell
  split
  · rfl
  · simp [Memory.read, h.symm]

theorem Memory.read_insert_same {lo a : Nat} {b : Byte} {m : List Host.Cell} (h : Memory.wfFrom lo m = true) :
    Memory.read (Memory.insert m a b) a = b := by
  induction m generalizing lo with
  | nil => exact Memory.read_consCell_same (lo := a + 1) rfl (by omega)
  | cons c rest ih =>
    obtain ⟨-, h2, h3, h4⟩ := Memory.wfFrom_cons.1 h
    unfold Memory.insert
    split
    · next hlt =>
      exact Memory.read_consCell_same (lo := c.1) (Memory.wfFrom_cons.2 ⟨le_rfl, h2, h3, h4⟩) hlt
    · split
      · next heq => exact Memory.read_consCell_same h4 (by omega)
      · next h1 h2 => simp [Memory.read, Ne.symm h2, ih h4]

theorem Memory.read_insert_other {a a' : Nat} {b : Byte} {m : List Host.Cell} (h : a' ≠ a) :
    Memory.read (Memory.insert m a b) a' = Memory.read m a' := by
  induction m with
  | nil => exact Memory.read_consCell_other h
  | cons c rest ih =>
    unfold Memory.insert
    split
    · exact Memory.read_consCell_other h
    · split
      · next heq =>
        have : c.1 ≠ a' := by omega
        rw [Memory.read_consCell_other h]
        simp [Memory.read, this]
      · simp [Memory.read, ih]

/-- A read of an existing address after a write to it gives the byte written. -/
theorem Memory.read_write_same {m : List Host.Cell} (h : Memory.wf m = true) {a : Nat} (ha : a < Config.memSize) (b : Byte) :
    Memory.read (Memory.write m a b) a = b := by
  simp only [Memory.write, if_pos ha]
  exact Memory.read_insert_same h

/-- A write leaves every other address alone. -/
theorem Memory.read_write_other (m : List Host.Cell) {a a' : Nat} (h : a' ≠ a) (b : Byte) :
    Memory.read (Memory.write m a b) a' = Memory.read m a' := by
  unfold Memory.write
  split
  · exact Memory.read_insert_other h
  · rfl

/-- Writing a list of bytes leaves every address outside it alone. -/
theorem Memory.read_writeList_outside (m : List Host.Cell) {a a' : Nat} {bs : List Byte}
    (h : a' < a ∨ a + bs.length ≤ a') : Memory.read (Memory.writeList m a bs) a' = Memory.read m a' := by
  induction bs generalizing m a with
  | nil => rfl
  | cons b bs ih =>
    simp only [List.length_cons] at h
    rw [Memory.writeList, ih _ (by omega), Memory.read_write_other m (by omega)]

/-- After writing a list of bytes inside memory, the `k`th address reads as the `k`th byte. -/
theorem Memory.read_writeList_inside {m : List Host.Cell} (h : Memory.wf m = true) {a k : Nat} {bs : List Byte}
    (hk : k < bs.length) (hb : a + bs.length ≤ Config.memSize) :
    Memory.read (Memory.writeList m a bs) (a + k) = bs[k] := by
  induction bs generalizing m a k with
  | nil => exact absurd hk (Nat.not_lt_zero k)
  | cons b bs ih =>
    simp only [List.length_cons] at hk hb
    rw [Memory.writeList]
    cases k with
    | zero =>
      rw [Memory.read_writeList_outside _ (by omega), Nat.add_zero, Memory.read_write_same h (by omega)]
      rfl
    | succ k =>
      have := ih (Memory.write_wf h a b) (a := a + 1) (k := k) (by omega) (by omega)
      rw [show a + (k + 1) = a + 1 + k by omega, this]
      rfl

end Sys2Proof.Machine
end

