-- ==== Sys2Proof/Laws/State.lean ====
section
/-! SUPPORT. One lemma per field per update of State, and what the accessors read after each update. -/

namespace Sys2Proof.Machine

variable (s : State)

@[simp] theorem State.setV_v (r : Reg) (b : Byte) : (s.setV r b).v = s.v.set r b := rfl
@[simp] theorem State.setV_i (r : Reg) (b : Byte) : (s.setV r b).i = s.i := rfl
@[simp] theorem State.setV_pc (r : Reg) (b : Byte) : (s.setV r b).pc = s.pc := rfl
@[simp] theorem State.setV_mem (r : Reg) (b : Byte) : (s.setV r b).mem = s.mem := rfl
@[simp] theorem State.setV_stack (r : Reg) (b : Byte) : (s.setV r b).stack = s.stack := rfl
@[simp] theorem State.setV_sp (r : Reg) (b : Byte) : (s.setV r b).sp = s.sp := rfl
@[simp] theorem State.setV_fb (r : Reg) (b : Byte) : (s.setV r b).fb = s.fb := rfl
@[simp] theorem State.setV_dt (r : Reg) (b : Byte) : (s.setV r b).dt = s.dt := rfl
@[simp] theorem State.setV_st (r : Reg) (b : Byte) : (s.setV r b).st = s.st := rfl
@[simp] theorem State.setV_status (r : Reg) (b : Byte) : (s.setV r b).status = s.status := rfl
@[simp] theorem State.setV_err (r : Reg) (b : Byte) : (s.setV r b).err = s.err := rfl
@[simp] theorem State.setV_keys (r : Reg) (b : Byte) : (s.setV r b).keys = s.keys := rfl
@[simp] theorem State.setV_rand (r : Reg) (b : Byte) : (s.setV r b).rand = s.rand := rfl
@[simp] theorem State.setV_hostOps (r : Reg) (b : Byte) : (s.setV r b).hostOps = s.hostOps := rfl
@[simp] theorem State.setV_draws (r : Reg) (b : Byte) : (s.setV r b).draws = s.draws := rfl
@[simp] theorem State.setV_reply (r : Reg) (b : Byte) : (s.setV r b).reply = s.reply := rfl
@[simp] theorem State.setV_readByte (r : Reg) (b : Byte) (m : Nat) : (s.setV r b).readByte m = s.readByte m := rfl
@[simp] theorem State.setV_base (r : Reg) (b : Byte) : (s.setV r b).base = s.base := rfl

@[simp] theorem State.setI_v (w : Word) : (s.setI w).v = s.v := rfl
@[simp] theorem State.setI_i (w : Word) : (s.setI w).i = w := rfl
@[simp] theorem State.setI_pc (w : Word) : (s.setI w).pc = s.pc := rfl
@[simp] theorem State.setI_mem (w : Word) : (s.setI w).mem = s.mem := rfl
@[simp] theorem State.setI_stack (w : Word) : (s.setI w).stack = s.stack := rfl
@[simp] theorem State.setI_sp (w : Word) : (s.setI w).sp = s.sp := rfl
@[simp] theorem State.setI_fb (w : Word) : (s.setI w).fb = s.fb := rfl
@[simp] theorem State.setI_dt (w : Word) : (s.setI w).dt = s.dt := rfl
@[simp] theorem State.setI_st (w : Word) : (s.setI w).st = s.st := rfl
@[simp] theorem State.setI_status (w : Word) : (s.setI w).status = s.status := rfl
@[simp] theorem State.setI_err (w : Word) : (s.setI w).err = s.err := rfl
@[simp] theorem State.setI_keys (w : Word) : (s.setI w).keys = s.keys := rfl
@[simp] theorem State.setI_rand (w : Word) : (s.setI w).rand = s.rand := rfl
@[simp] theorem State.setI_hostOps (w : Word) : (s.setI w).hostOps = s.hostOps := rfl
@[simp] theorem State.setI_draws (w : Word) : (s.setI w).draws = s.draws := rfl
@[simp] theorem State.setI_reply (w : Word) : (s.setI w).reply = s.reply := rfl
@[simp] theorem State.setI_getV (w : Word) (q : Reg) : (s.setI w).getV q = s.getV q := rfl
@[simp] theorem State.setI_readByte (w : Word) (m : Nat) : (s.setI w).readByte m = s.readByte m := rfl

@[simp] theorem State.setPc_v (w : Word) : (s.setPc w).v = s.v := rfl
@[simp] theorem State.setPc_i (w : Word) : (s.setPc w).i = s.i := rfl
@[simp] theorem State.setPc_pc (w : Word) : (s.setPc w).pc = w := rfl
@[simp] theorem State.setPc_mem (w : Word) : (s.setPc w).mem = s.mem := rfl
@[simp] theorem State.setPc_stack (w : Word) : (s.setPc w).stack = s.stack := rfl
@[simp] theorem State.setPc_sp (w : Word) : (s.setPc w).sp = s.sp := rfl
@[simp] theorem State.setPc_fb (w : Word) : (s.setPc w).fb = s.fb := rfl
@[simp] theorem State.setPc_dt (w : Word) : (s.setPc w).dt = s.dt := rfl
@[simp] theorem State.setPc_st (w : Word) : (s.setPc w).st = s.st := rfl
@[simp] theorem State.setPc_status (w : Word) : (s.setPc w).status = s.status := rfl
@[simp] theorem State.setPc_err (w : Word) : (s.setPc w).err = s.err := rfl
@[simp] theorem State.setPc_keys (w : Word) : (s.setPc w).keys = s.keys := rfl
@[simp] theorem State.setPc_rand (w : Word) : (s.setPc w).rand = s.rand := rfl
@[simp] theorem State.setPc_hostOps (w : Word) : (s.setPc w).hostOps = s.hostOps := rfl
@[simp] theorem State.setPc_draws (w : Word) : (s.setPc w).draws = s.draws := rfl
@[simp] theorem State.setPc_reply (w : Word) : (s.setPc w).reply = s.reply := rfl
@[simp] theorem State.setPc_getV (w : Word) (q : Reg) : (s.setPc w).getV q = s.getV q := rfl
@[simp] theorem State.setPc_readByte (w : Word) (m : Nat) : (s.setPc w).readByte m = s.readByte m := rfl
@[simp] theorem State.setPc_base (w : Word) : (s.setPc w).base = s.base := rfl

@[simp] theorem State.setDt_v (b : Byte) : (s.setDt b).v = s.v := rfl
@[simp] theorem State.setDt_i (b : Byte) : (s.setDt b).i = s.i := rfl
@[simp] theorem State.setDt_pc (b : Byte) : (s.setDt b).pc = s.pc := rfl
@[simp] theorem State.setDt_mem (b : Byte) : (s.setDt b).mem = s.mem := rfl
@[simp] theorem State.setDt_stack (b : Byte) : (s.setDt b).stack = s.stack := rfl
@[simp] theorem State.setDt_sp (b : Byte) : (s.setDt b).sp = s.sp := rfl
@[simp] theorem State.setDt_fb (b : Byte) : (s.setDt b).fb = s.fb := rfl
@[simp] theorem State.setDt_dt (b : Byte) : (s.setDt b).dt = b := rfl
@[simp] theorem State.setDt_st (b : Byte) : (s.setDt b).st = s.st := rfl
@[simp] theorem State.setDt_status (b : Byte) : (s.setDt b).status = s.status := rfl
@[simp] theorem State.setDt_err (b : Byte) : (s.setDt b).err = s.err := rfl
@[simp] theorem State.setDt_keys (b : Byte) : (s.setDt b).keys = s.keys := rfl
@[simp] theorem State.setDt_rand (b : Byte) : (s.setDt b).rand = s.rand := rfl
@[simp] theorem State.setDt_hostOps (b : Byte) : (s.setDt b).hostOps = s.hostOps := rfl
@[simp] theorem State.setDt_draws (b : Byte) : (s.setDt b).draws = s.draws := rfl
@[simp] theorem State.setDt_reply (b : Byte) : (s.setDt b).reply = s.reply := rfl
@[simp] theorem State.setDt_getV (b : Byte) (q : Reg) : (s.setDt b).getV q = s.getV q := rfl
@[simp] theorem State.setDt_readByte (b : Byte) (m : Nat) : (s.setDt b).readByte m = s.readByte m := rfl
@[simp] theorem State.setDt_base (b : Byte) : (s.setDt b).base = s.base := rfl

@[simp] theorem State.setSt_v (b : Byte) : (s.setSt b).v = s.v := rfl
@[simp] theorem State.setSt_i (b : Byte) : (s.setSt b).i = s.i := rfl
@[simp] theorem State.setSt_pc (b : Byte) : (s.setSt b).pc = s.pc := rfl
@[simp] theorem State.setSt_mem (b : Byte) : (s.setSt b).mem = s.mem := rfl
@[simp] theorem State.setSt_stack (b : Byte) : (s.setSt b).stack = s.stack := rfl
@[simp] theorem State.setSt_sp (b : Byte) : (s.setSt b).sp = s.sp := rfl
@[simp] theorem State.setSt_fb (b : Byte) : (s.setSt b).fb = s.fb := rfl
@[simp] theorem State.setSt_dt (b : Byte) : (s.setSt b).dt = s.dt := rfl
@[simp] theorem State.setSt_st (b : Byte) : (s.setSt b).st = b := rfl
@[simp] theorem State.setSt_status (b : Byte) : (s.setSt b).status = s.status := rfl
@[simp] theorem State.setSt_err (b : Byte) : (s.setSt b).err = s.err := rfl
@[simp] theorem State.setSt_keys (b : Byte) : (s.setSt b).keys = s.keys := rfl
@[simp] theorem State.setSt_rand (b : Byte) : (s.setSt b).rand = s.rand := rfl
@[simp] theorem State.setSt_hostOps (b : Byte) : (s.setSt b).hostOps = s.hostOps := rfl
@[simp] theorem State.setSt_draws (b : Byte) : (s.setSt b).draws = s.draws := rfl
@[simp] theorem State.setSt_reply (b : Byte) : (s.setSt b).reply = s.reply := rfl
@[simp] theorem State.setSt_getV (b : Byte) (q : Reg) : (s.setSt b).getV q = s.getV q := rfl
@[simp] theorem State.setSt_readByte (b : Byte) (m : Nat) : (s.setSt b).readByte m = s.readByte m := rfl
@[simp] theorem State.setSt_base (b : Byte) : (s.setSt b).base = s.base := rfl

@[simp] theorem State.setFb_v (f : Frame) : (s.setFb f).v = s.v := rfl
@[simp] theorem State.setFb_i (f : Frame) : (s.setFb f).i = s.i := rfl
@[simp] theorem State.setFb_pc (f : Frame) : (s.setFb f).pc = s.pc := rfl
@[simp] theorem State.setFb_mem (f : Frame) : (s.setFb f).mem = s.mem := rfl
@[simp] theorem State.setFb_stack (f : Frame) : (s.setFb f).stack = s.stack := rfl
@[simp] theorem State.setFb_sp (f : Frame) : (s.setFb f).sp = s.sp := rfl
@[simp] theorem State.setFb_fb (f : Frame) : (s.setFb f).fb = f := rfl
@[simp] theorem State.setFb_dt (f : Frame) : (s.setFb f).dt = s.dt := rfl
@[simp] theorem State.setFb_st (f : Frame) : (s.setFb f).st = s.st := rfl
@[simp] theorem State.setFb_status (f : Frame) : (s.setFb f).status = s.status := rfl
@[simp] theorem State.setFb_err (f : Frame) : (s.setFb f).err = s.err := rfl
@[simp] theorem State.setFb_keys (f : Frame) : (s.setFb f).keys = s.keys := rfl
@[simp] theorem State.setFb_rand (f : Frame) : (s.setFb f).rand = s.rand := rfl
@[simp] theorem State.setFb_hostOps (f : Frame) : (s.setFb f).hostOps = s.hostOps := rfl
@[simp] theorem State.setFb_draws (f : Frame) : (s.setFb f).draws = s.draws := rfl
@[simp] theorem State.setFb_reply (f : Frame) : (s.setFb f).reply = s.reply := rfl
@[simp] theorem State.setFb_getV (f : Frame) (q : Reg) : (s.setFb f).getV q = s.getV q := rfl
@[simp] theorem State.setFb_readByte (f : Frame) (m : Nat) : (s.setFb f).readByte m = s.readByte m := rfl
@[simp] theorem State.setFb_base (f : Frame) : (s.setFb f).base = s.base := rfl

@[simp] theorem State.setReply_v (r : Reply) : (s.setReply r).v = s.v := rfl
@[simp] theorem State.setReply_i (r : Reply) : (s.setReply r).i = s.i := rfl
@[simp] theorem State.setReply_pc (r : Reply) : (s.setReply r).pc = s.pc := rfl
@[simp] theorem State.setReply_mem (r : Reply) : (s.setReply r).mem = s.mem := rfl
@[simp] theorem State.setReply_stack (r : Reply) : (s.setReply r).stack = s.stack := rfl
@[simp] theorem State.setReply_sp (r : Reply) : (s.setReply r).sp = s.sp := rfl
@[simp] theorem State.setReply_fb (r : Reply) : (s.setReply r).fb = s.fb := rfl
@[simp] theorem State.setReply_dt (r : Reply) : (s.setReply r).dt = s.dt := rfl
@[simp] theorem State.setReply_st (r : Reply) : (s.setReply r).st = s.st := rfl
@[simp] theorem State.setReply_status (r : Reply) : (s.setReply r).status = s.status := rfl
@[simp] theorem State.setReply_err (r : Reply) : (s.setReply r).err = s.err := rfl
@[simp] theorem State.setReply_keys (r : Reply) : (s.setReply r).keys = s.keys := rfl
@[simp] theorem State.setReply_rand (r : Reply) : (s.setReply r).rand = s.rand := rfl
@[simp] theorem State.setReply_hostOps (r : Reply) : (s.setReply r).hostOps = s.hostOps := rfl
@[simp] theorem State.setReply_draws (r : Reply) : (s.setReply r).draws = s.draws := rfl
@[simp] theorem State.setReply_reply (r : Reply) : (s.setReply r).reply = r := rfl
@[simp] theorem State.setReply_getV (r : Reply) (q : Reg) : (s.setReply r).getV q = s.getV q := rfl
@[simp] theorem State.setReply_readByte (r : Reply) (m : Nat) : (s.setReply r).readByte m = s.readByte m := rfl
@[simp] theorem State.setReply_base (r : Reply) : (s.setReply r).base = s.base := rfl

@[simp] theorem State.advance_v : (s.advance).v = s.v := rfl
@[simp] theorem State.advance_i : (s.advance).i = s.i := rfl
@[simp] theorem State.advance_pc : (s.advance).pc = s.pc + 2 := rfl
@[simp] theorem State.advance_mem : (s.advance).mem = s.mem := rfl
@[simp] theorem State.advance_stack : (s.advance).stack = s.stack := rfl
@[simp] theorem State.advance_sp : (s.advance).sp = s.sp := rfl
@[simp] theorem State.advance_fb : (s.advance).fb = s.fb := rfl
@[simp] theorem State.advance_dt : (s.advance).dt = s.dt := rfl
@[simp] theorem State.advance_st : (s.advance).st = s.st := rfl
@[simp] theorem State.advance_status : (s.advance).status = s.status := rfl
@[simp] theorem State.advance_err : (s.advance).err = s.err := rfl
@[simp] theorem State.advance_keys : (s.advance).keys = s.keys := rfl
@[simp] theorem State.advance_rand : (s.advance).rand = s.rand := rfl
@[simp] theorem State.advance_hostOps : (s.advance).hostOps = s.hostOps := rfl
@[simp] theorem State.advance_draws : (s.advance).draws = s.draws := rfl
@[simp] theorem State.advance_reply : (s.advance).reply = s.reply := rfl
@[simp] theorem State.advance_getV (q : Reg) : (s.advance).getV q = s.getV q := rfl
@[simp] theorem State.advance_readByte (m : Nat) : (s.advance).readByte m = s.readByte m := rfl
@[simp] theorem State.advance_base : (s.advance).base = s.base := rfl

@[simp] theorem State.storeBytes_v (a : Nat) (bs : List Byte) : (s.storeBytes a bs).v = s.v := rfl
@[simp] theorem State.storeBytes_i (a : Nat) (bs : List Byte) : (s.storeBytes a bs).i = s.i := rfl
@[simp] theorem State.storeBytes_pc (a : Nat) (bs : List Byte) : (s.storeBytes a bs).pc = s.pc := rfl
@[simp] theorem State.storeBytes_mem (a : Nat) (bs : List Byte) : (s.storeBytes a bs).mem = Memory.writeList s.mem a bs := rfl
@[simp] theorem State.storeBytes_stack (a : Nat) (bs : List Byte) : (s.storeBytes a bs).stack = s.stack := rfl
@[simp] theorem State.storeBytes_sp (a : Nat) (bs : List Byte) : (s.storeBytes a bs).sp = s.sp := rfl
@[simp] theorem State.storeBytes_fb (a : Nat) (bs : List Byte) : (s.storeBytes a bs).fb = s.fb := rfl
@[simp] theorem State.storeBytes_dt (a : Nat) (bs : List Byte) : (s.storeBytes a bs).dt = s.dt := rfl
@[simp] theorem State.storeBytes_st (a : Nat) (bs : List Byte) : (s.storeBytes a bs).st = s.st := rfl
@[simp] theorem State.storeBytes_status (a : Nat) (bs : List Byte) : (s.storeBytes a bs).status = s.status := rfl
@[simp] theorem State.storeBytes_err (a : Nat) (bs : List Byte) : (s.storeBytes a bs).err = s.err := rfl
@[simp] theorem State.storeBytes_keys (a : Nat) (bs : List Byte) : (s.storeBytes a bs).keys = s.keys := rfl
@[simp] theorem State.storeBytes_rand (a : Nat) (bs : List Byte) : (s.storeBytes a bs).rand = s.rand := rfl
@[simp] theorem State.storeBytes_hostOps (a : Nat) (bs : List Byte) : (s.storeBytes a bs).hostOps = s.hostOps := rfl
@[simp] theorem State.storeBytes_draws (a : Nat) (bs : List Byte) : (s.storeBytes a bs).draws = s.draws := rfl
@[simp] theorem State.storeBytes_reply (a : Nat) (bs : List Byte) : (s.storeBytes a bs).reply = s.reply := rfl
@[simp] theorem State.storeBytes_getV (a : Nat) (bs : List Byte) (q : Reg) : (s.storeBytes a bs).getV q = s.getV q := rfl
@[simp] theorem State.storeBytes_base (a : Nat) (bs : List Byte) : (s.storeBytes a bs).base = s.base := rfl

@[simp] theorem State.setRange_v (x : Reg) (f : Nat → Byte) : (s.setRange x f).v = Vector.ofFn (fun k : Reg => if k ≤ x then f k.val else s.getV k) := rfl
@[simp] theorem State.setRange_i (x : Reg) (f : Nat → Byte) : (s.setRange x f).i = s.i := rfl
@[simp] theorem State.setRange_pc (x : Reg) (f : Nat → Byte) : (s.setRange x f).pc = s.pc := rfl
@[simp] theorem State.setRange_mem (x : Reg) (f : Nat → Byte) : (s.setRange x f).mem = s.mem := rfl
@[simp] theorem State.setRange_stack (x : Reg) (f : Nat → Byte) : (s.setRange x f).stack = s.stack := rfl
@[simp] theorem State.setRange_sp (x : Reg) (f : Nat → Byte) : (s.setRange x f).sp = s.sp := rfl
@[simp] theorem State.setRange_fb (x : Reg) (f : Nat → Byte) : (s.setRange x f).fb = s.fb := rfl
@[simp] theorem State.setRange_dt (x : Reg) (f : Nat → Byte) : (s.setRange x f).dt = s.dt := rfl
@[simp] theorem State.setRange_st (x : Reg) (f : Nat → Byte) : (s.setRange x f).st = s.st := rfl
@[simp] theorem State.setRange_status (x : Reg) (f : Nat → Byte) : (s.setRange x f).status = s.status := rfl
@[simp] theorem State.setRange_err (x : Reg) (f : Nat → Byte) : (s.setRange x f).err = s.err := rfl
@[simp] theorem State.setRange_keys (x : Reg) (f : Nat → Byte) : (s.setRange x f).keys = s.keys := rfl
@[simp] theorem State.setRange_rand (x : Reg) (f : Nat → Byte) : (s.setRange x f).rand = s.rand := rfl
@[simp] theorem State.setRange_hostOps (x : Reg) (f : Nat → Byte) : (s.setRange x f).hostOps = s.hostOps := rfl
@[simp] theorem State.setRange_draws (x : Reg) (f : Nat → Byte) : (s.setRange x f).draws = s.draws := rfl
@[simp] theorem State.setRange_reply (x : Reg) (f : Nat → Byte) : (s.setRange x f).reply = s.reply := rfl
@[simp] theorem State.setRange_readByte (x : Reg) (f : Nat → Byte) (m : Nat) : (s.setRange x f).readByte m = s.readByte m := rfl
@[simp] theorem State.setRange_base (x : Reg) (f : Nat → Byte) : (s.setRange x f).base = s.base := rfl

@[simp] theorem State.skipIf_v (c : Bool) : (s.skipIf c).v = s.v := by cases c <;> rfl
@[simp] theorem State.skipIf_i (c : Bool) : (s.skipIf c).i = s.i := by cases c <;> rfl
@[simp] theorem State.skipIf_pc (c : Bool) : (s.skipIf c).pc = (if c then s.pc + 2 else s.pc) := by cases c <;> rfl
@[simp] theorem State.skipIf_mem (c : Bool) : (s.skipIf c).mem = s.mem := by cases c <;> rfl
@[simp] theorem State.skipIf_stack (c : Bool) : (s.skipIf c).stack = s.stack := by cases c <;> rfl
@[simp] theorem State.skipIf_sp (c : Bool) : (s.skipIf c).sp = s.sp := by cases c <;> rfl
@[simp] theorem State.skipIf_fb (c : Bool) : (s.skipIf c).fb = s.fb := by cases c <;> rfl
@[simp] theorem State.skipIf_dt (c : Bool) : (s.skipIf c).dt = s.dt := by cases c <;> rfl
@[simp] theorem State.skipIf_st (c : Bool) : (s.skipIf c).st = s.st := by cases c <;> rfl
@[simp] theorem State.skipIf_status (c : Bool) : (s.skipIf c).status = s.status := by cases c <;> rfl
@[simp] theorem State.skipIf_err (c : Bool) : (s.skipIf c).err = s.err := by cases c <;> rfl
@[simp] theorem State.skipIf_keys (c : Bool) : (s.skipIf c).keys = s.keys := by cases c <;> rfl
@[simp] theorem State.skipIf_rand (c : Bool) : (s.skipIf c).rand = s.rand := by cases c <;> rfl
@[simp] theorem State.skipIf_hostOps (c : Bool) : (s.skipIf c).hostOps = s.hostOps := by cases c <;> rfl
@[simp] theorem State.skipIf_draws (c : Bool) : (s.skipIf c).draws = s.draws := by cases c <;> rfl
@[simp] theorem State.skipIf_reply (c : Bool) : (s.skipIf c).reply = s.reply := by cases c <;> rfl
@[simp] theorem State.skipIf_getV (c : Bool) (q : Reg) : (s.skipIf c).getV q = s.getV q := by cases c <;> rfl
@[simp] theorem State.skipIf_readByte (c : Bool) (m : Nat) : (s.skipIf c).readByte m = s.readByte m := by cases c <;> rfl
@[simp] theorem State.skipIf_base (c : Bool) : (s.skipIf c).base = s.base := by cases c <;> rfl

@[simp] theorem State.drawInputs_v : (s.drawInputs).v = s.v := rfl
@[simp] theorem State.drawInputs_i : (s.drawInputs).i = s.i := rfl
@[simp] theorem State.drawInputs_pc : (s.drawInputs).pc = s.pc := rfl
@[simp] theorem State.drawInputs_mem : (s.drawInputs).mem = s.mem := rfl
@[simp] theorem State.drawInputs_stack : (s.drawInputs).stack = s.stack := rfl
@[simp] theorem State.drawInputs_sp : (s.drawInputs).sp = s.sp := rfl
@[simp] theorem State.drawInputs_fb : (s.drawInputs).fb = s.fb := rfl
@[simp] theorem State.drawInputs_dt : (s.drawInputs).dt = s.dt := rfl
@[simp] theorem State.drawInputs_st : (s.drawInputs).st = s.st := rfl
@[simp] theorem State.drawInputs_status : (s.drawInputs).status = s.status := rfl
@[simp] theorem State.drawInputs_err : (s.drawInputs).err = s.err := rfl
@[simp] theorem State.drawInputs_keys : (s.drawInputs).keys = Config.freeKeys s.draws := rfl
@[simp] theorem State.drawInputs_rand : (s.drawInputs).rand = Config.freeRand s.draws := rfl
@[simp] theorem State.drawInputs_hostOps : (s.drawInputs).hostOps = s.hostOps := rfl
@[simp] theorem State.drawInputs_draws : (s.drawInputs).draws = s.draws + 1 := rfl
@[simp] theorem State.drawInputs_reply : (s.drawInputs).reply = s.reply := rfl
@[simp] theorem State.drawInputs_getV (q : Reg) : (s.drawInputs).getV q = s.getV q := rfl
@[simp] theorem State.drawInputs_readByte (m : Nat) : (s.drawInputs).readByte m = s.readByte m := rfl
@[simp] theorem State.drawInputs_base : (s.drawInputs).base = s.base := rfl

@[simp] theorem State.tick_v : (s.tick).v = s.v := rfl
@[simp] theorem State.tick_i : (s.tick).i = s.i := rfl
@[simp] theorem State.tick_pc : (s.tick).pc = s.pc := rfl
@[simp] theorem State.tick_mem : (s.tick).mem = s.mem := rfl
@[simp] theorem State.tick_stack : (s.tick).stack = s.stack := rfl
@[simp] theorem State.tick_sp : (s.tick).sp = s.sp := rfl
@[simp] theorem State.tick_fb : (s.tick).fb = s.fb := rfl
@[simp] theorem State.tick_dt : (s.tick).dt = countDown s.dt := rfl
@[simp] theorem State.tick_st : (s.tick).st = countDown s.st := rfl
@[simp] theorem State.tick_status : (s.tick).status = s.status := rfl
@[simp] theorem State.tick_err : (s.tick).err = s.err := rfl
@[simp] theorem State.tick_keys : (s.tick).keys = s.keys := rfl
@[simp] theorem State.tick_rand : (s.tick).rand = s.rand := rfl
@[simp] theorem State.tick_hostOps : (s.tick).hostOps = s.hostOps := rfl
@[simp] theorem State.tick_draws : (s.tick).draws = s.draws := rfl
@[simp] theorem State.tick_reply : (s.tick).reply = s.reply := rfl
@[simp] theorem State.tick_getV (q : Reg) : (s.tick).getV q = s.getV q := rfl
@[simp] theorem State.tick_readByte (m : Nat) : (s.tick).readByte m = s.readByte m := rfl
@[simp] theorem State.tick_base : (s.tick).base = s.base := rfl

@[simp] theorem State.setV_getV_same (r : Reg) (b : Byte) : (s.setV r b).getV r = b := by
  simp [State.setV, State.getV]

theorem State.setV_getV_other {r q : Reg} (b : Byte) (h : q ≠ r) : (s.setV r b).getV q = s.getV q := by
  have : r.val ≠ q.val := fun e => h (Fin.ext e.symm)
  simp [State.setV, State.getV, this]

theorem State.setV_getV (r q : Reg) (b : Byte) : (s.setV r b).getV q = if q = r then b else s.getV q := by
  by_cases h : q = r
  · subst h; simp
  · simp [h, s.setV_getV_other b h]

theorem State.setRange_getV (x q : Reg) (f : Nat → Byte) :
    (s.setRange x f).getV q = if q ≤ x then f q.val else s.getV q := by
  simp [State.setRange, State.getV]

end Sys2Proof.Machine
end

