-- ==== Sys2Proof/Laws/Ops.lean ====
section
/-! SUPPORT. For each shared operation, everything it can do, said once; proofs cite these instead of unfolding it. -/

namespace Sys2Proof.Machine

variable {s t : State}

theorem State.complete_eq (s : State) : s.complete = .next (s.setReply .done) := rfl

theorem State.raise_eq (s : State) (e : Err) :
    s.raise e = .next { s with status := .halted, err := e, reply := .fatal e } := rfl

theorem State.guarded_pos {base count : Nat} (h : beyondMemory base count) (access : Out) :
    s.guarded base count access = s.raise .addressOutOfBounds := if_pos h

theorem State.guarded_neg {base count : Nat} (h : ¬ beyondMemory base count) (access : Out) :
    s.guarded base count access = access := if_neg h

/-- If a guarded access answers `t`, the range was out of bounds and the error was taken, or the access itself answered. -/
theorem State.guarded_next {base count : Nat} {access : Out} (h : s.guarded base count access = .next t) :
    beyondMemory base count ∧ s.raise .addressOutOfBounds = .next t ∨
      ¬ beyondMemory base count ∧ access = .next t := by
  unfold State.guarded at h
  split at h
  · next hb => exact .inl ⟨hb, h⟩
  · next hb => exact .inr ⟨hb, h⟩

theorem State.skipWhen_eq (s : State) (c : Bool) :
    s.skipWhen c = .next ((s.advance.skipIf c).setReply .done) := rfl

theorem State.result_eq (s : State) (x : Reg) (b : Byte) :
    s.result x b = .next ((s.advance.setV x b).setReply .done) := rfl

theorem State.resultThenFlag_eq (s : State) (x : Reg) (b flag : Byte) :
    s.resultThenFlag x b flag = .next (((s.advance.setV x b).setV vf flag).setReply .done) := rfl

theorem State.flagThenShift_eq (s : State) (x : Reg) (flag : Byte) (shift : Byte → Byte) :
    s.flagThenShift x flag shift =
      .next (((s.advance.setV vf flag).setV x (shift ((s.advance.setV vf flag).getV x))).setReply .done) := rfl

theorem State.push_none (s : State) (w : Word) : s.push w = none ↔ s.sp.val = 16 := by
  simp [State.push]

/-- If `Push` succeeds there was room, and only the entry at `SP` and `SP` change. -/
theorem State.push_some {w : Word} (h : s.push w = some t) :
    s.sp.val < 16 ∧ t.sp.val = s.sp.val + 1 ∧ t.stack = s.stack.setIfInBounds s.sp.val w ∧
      t = { s with stack := t.stack, sp := t.sp } := by
  unfold State.push at h
  split at h
  · exact absurd h (by simp)
  · next hn =>
    have hlt := s.sp.isLt
    have hs : s.sp.val < 16 := by simp only [Config.stackDepth] at hn; omega
    cases h
    refine ⟨hs, ?_, rfl, rfl⟩
    simp [Fin.ofNat, Nat.mod_eq_of_lt (show s.sp.val + 1 < 17 by omega)]

theorem State.pop_none (s : State) : s.pop = none ↔ s.sp.val = 0 := by
  simp [State.pop]

/-- If `Pop` succeeds there was an entry; it is returned, and only `SP` changes. -/
theorem State.pop_some {w : Word} (h : s.pop = some (w, t)) :
    0 < s.sp.val ∧ t.sp.val = s.sp.val - 1 ∧ w = s.stack.getD (s.sp.val - 1) 0 ∧ t = { s with sp := t.sp } := by
  unfold State.pop at h
  split at h
  · exact absurd h (by simp)
  · next hn =>
    have hlt := s.sp.isLt
    cases h
    refine ⟨by omega, ?_, rfl, rfl⟩
    simp [Fin.ofNat, Nat.mod_eq_of_lt (show s.sp.val - 1 < 17 by omega)]

@[simp] theorem State.readBytes_length (s : State) (a n : Nat) : (s.readBytes a n).length = n := by
  simp [State.readBytes]

theorem State.readBytes_getElem (s : State) {a n k : Nat} (h : k < (s.readBytes a n).length) :
    (s.readBytes a n)[k] = s.readByte (a + k) := by
  simp [State.readBytes]

theorem State.fetchBytes_eq (s : State) :
    s.fetchBytes = [s.readByte s.pc.toNat, s.readByte (s.pc.toNat + 1)] := rfl

@[simp] theorem State.regRange_length (s : State) (x : Reg) : (s.regRange x).length = x.val + 1 := by
  have := x.isLt
  simp [State.regRange, rangeCount]

theorem State.regRange_getElem (s : State) {x : Reg} {k : Nat} (h : k < (s.regRange x).length) (hk : k < 16) :
    (s.regRange x)[k] = s.getV ⟨k, hk⟩ := by
  simp [State.regRange, State.getV]

@[simp] theorem bcdDigits_length (b : Byte) : (bcdDigits b).length = 3 := rfl

/-- A key found by `AnyKey` is a key number, is pressed, and no lower key is. -/
theorem State.anyKey_some {k : Nat} (h : s.anyKey = some k) :
    k < 16 ∧ s.keyPressed k = true ∧ ∀ j, j < k → s.keyPressed j = false := by
  unfold State.anyKey at h
  obtain ⟨hk, hp, hn⟩ := List.find?_range_eq_some.1 h
  refine ⟨by simpa using hp, hk, fun j hj => ?_⟩
  simpa using hn j hj

theorem State.anyKey_none : s.anyKey = none ↔ ∀ k, k < 16 → s.keyPressed k = false := by
  simp [State.anyKey]

@[simp] theorem keyIndex_lt (b : Byte) : keyIndex b < 16 := by
  have : (b &&& Config.keyIndexMask).toNat ≤ Config.keyIndexMask.toNat := by
    rw [BitVec.toNat_and]; exact Nat.and_le_right
  have e : Config.keyIndexMask.toNat = 15 := rfl
  unfold keyIndex; omega

end Sys2Proof.Machine
end

