-- ==== Sys2Proof/Laws/PerInstr.lean ====
section
/-! SUPPORT. The family `Encodes`: what every instruction's word is, as syntax, one lemma per constructor. -/

namespace Sys2Proof.Laws.Encodes

/-- The word of the instruction is selected by a row of the opcode map (30_encoding.md R54, R55). -/
def Statement (i : Instr) : Prop := wordDefined (encode i) = true

/-- Masks act on the two parts of a concatenation apart. -/
theorem append_and_append {m n : Nat} (a c : BitVec m) (b d : BitVec n) : (a ++ b) &&& (c ++ d) = (a &&& c) ++ (b &&& d) := by
  refine BitVec.eq_of_getLsbD_eq fun j _ => ?_
  simp only [BitVec.getLsbD_and, BitVec.getLsbD_append]
  split <;> rfl

theorem and_formNNN (op : Nibble) (nnn : Addr12) : formNNN op nnn &&& 0xF000 = op ++ (0 : Addr12) := by
  have := append_and_append op 0xF nnn 0
  rwa [show op &&& 0xF = op from BitVec.and_allOnes, show nnn &&& 0 = 0 from BitVec.and_zero] at this

theorem and_formXKK (op : Nibble) (x : Reg) (kk : Byte) : formXKK op x kk &&& 0xF000 = (op ++ (0 : Nibble)) ++ (0 : Byte) := by
  have := append_and_append (op ++ regBits x) ((0xF : Nibble) ++ (0 : Nibble)) kk 0
  rwa [append_and_append op 0xF (regBits x) 0, show op &&& 0xF = op from BitVec.and_allOnes, show regBits x &&& 0 = 0 from BitVec.and_zero,
    show kk &&& 0 = 0 from BitVec.and_zero] at this

theorem and_formX (op : Nibble) (x : Reg) (sub : Byte) : formX op x sub &&& 0xF0FF = (op ++ (0 : Nibble)) ++ sub := by
  have := append_and_append (op ++ regBits x) ((0xF : Nibble) ++ (0 : Nibble)) sub 0xFF
  rwa [append_and_append op 0xF (regBits x) 0, show op &&& 0xF = op from BitVec.and_allOnes, show regBits x &&& 0 = 0 from BitVec.and_zero,
    show sub &&& 0xFF = sub from BitVec.and_allOnes] at this

theorem and_formXYN (op : Nibble) (x y : Reg) (n : Nibble) :
    formXYN op x y n &&& 0xF00F = (op ++ (0 : Nibble)) ++ ((0 : Nibble) ++ n) := by
  have := append_and_append (op ++ regBits x) ((0xF : Nibble) ++ (0 : Nibble)) (regBits y ++ n) ((0 : Nibble) ++ (0xF : Nibble))
  rwa [append_and_append op 0xF (regBits x) 0, append_and_append (regBits y) 0 n 0xF, show op &&& 0xF = op from BitVec.and_allOnes,
    show regBits x &&& 0 = 0 from BitVec.and_zero, show regBits y &&& 0 = 0 from BitVec.and_zero,
    show n &&& 0xF = n from BitVec.and_allOnes] at this

theorem and_formXYN_op (op : Nibble) (x y : Reg) (n : Nibble) :
    formXYN op x y n &&& 0xF000 = (op ++ (0 : Nibble)) ++ ((0 : Nibble) ++ (0 : Nibble)) := by
  have := append_and_append (op ++ regBits x) ((0xF : Nibble) ++ (0 : Nibble)) (regBits y ++ n) ((0 : Nibble) ++ (0 : Nibble))
  rwa [append_and_append op 0xF (regBits x) 0, append_and_append (regBits y) 0 n 0, show op &&& 0xF = op from BitVec.and_allOnes,
    show regBits x &&& 0 = 0 from BitVec.and_zero, show regBits y &&& 0 = 0 from BitVec.and_zero,
    show n &&& 0 = 0 from BitVec.and_zero] at this

/-- A word whose masked value is the pattern of a row of the map is an instruction. -/
theorem selected {ir mask p : Word} (h : (opcodeMap.any fun r => r.mask == mask && r.pattern == p) = true)
    (hw : ir &&& mask = p) : wordDefined ir = true := by
  obtain ⟨r, hr, he⟩ := List.any_eq_true.1 h
  simp only [Bool.and_eq_true, beq_iff_eq] at he
  exact List.any_eq_true.2 ⟨r, hr, by simp [OpcodeRow.selects, he.1, he.2, hw]⟩

/-- R55. -/
theorem cls : Statement (.cls) := show wordDefined _ = true by decide

/-- R55. -/
theorem ret : Statement (.ret) := show wordDefined _ = true by decide

/-- R55. -/
theorem jp (nnn : Addr12) : Statement (.jp nnn) := selected (by decide) (and_formNNN _ _)

/-- R55. -/
theorem call (nnn : Addr12) : Statement (.call nnn) := selected (by decide) (and_formNNN _ _)

/-- R55. -/
theorem seByte (x : Reg) (kk : Byte) : Statement (.seByte x kk) := selected (by decide) (and_formXKK _ _ _)

/-- R55. -/
theorem sneByte (x : Reg) (kk : Byte) : Statement (.sneByte x kk) := selected (by decide) (and_formXKK _ _ _)

/-- R55. -/
theorem seReg (x : Reg) (y : Reg) : Statement (.seReg x y) := selected (by decide) (and_formXYN _ _ _ _)

/-- R55. -/
theorem ldByte (x : Reg) (kk : Byte) : Statement (.ldByte x kk) := selected (by decide) (and_formXKK _ _ _)

/-- R55. -/
theorem addByte (x : Reg) (kk : Byte) : Statement (.addByte x kk) := selected (by decide) (and_formXKK _ _ _)

/-- R55. -/
theorem ldReg (x : Reg) (y : Reg) : Statement (.ldReg x y) := selected (by decide) (and_formXYN _ _ _ _)

/-- R55. -/
theorem orReg (x : Reg) (y : Reg) : Statement (.orReg x y) := selected (by decide) (and_formXYN _ _ _ _)

/-- R55. -/
theorem andReg (x : Reg) (y : Reg) : Statement (.andReg x y) := selected (by decide) (and_formXYN _ _ _ _)

/-- R55. -/
theorem xorReg (x : Reg) (y : Reg) : Statement (.xorReg x y) := selected (by decide) (and_formXYN _ _ _ _)

/-- R55. -/
theorem addReg (x : Reg) (y : Reg) : Statement (.addReg x y) := selected (by decide) (and_formXYN _ _ _ _)

/-- R55. -/
theorem subReg (x : Reg) (y : Reg) : Statement (.subReg x y) := selected (by decide) (and_formXYN _ _ _ _)

/-- R55. -/
theorem shr (x : Reg) (y : Reg) : Statement (.shr x y) := selected (by decide) (and_formXYN _ _ _ _)

/-- R55. -/
theorem subnReg (x : Reg) (y : Reg) : Statement (.subnReg x y) := selected (by decide) (and_formXYN _ _ _ _)

/-- R55. -/
theorem shl (x : Reg) (y : Reg) : Statement (.shl x y) := selected (by decide) (and_formXYN _ _ _ _)

/-- R55. -/
theorem sneReg (x : Reg) (y : Reg) : Statement (.sneReg x y) := selected (by decide) (and_formXYN _ _ _ _)

/-- R55. -/
theorem ldI (nnn : Addr12) : Statement (.ldI nnn) := selected (by decide) (and_formNNN _ _)

/-- R55. -/
theorem jpV0 (nnn : Addr12) : Statement (.jpV0 nnn) := selected (by decide) (and_formNNN _ _)

/-- R55. -/
theorem rnd (x : Reg) (kk : Byte) : Statement (.rnd x kk) := selected (by decide) (and_formXKK _ _ _)

/-- R55. -/
theorem drw (x : Reg) (y : Reg) (n : Nibble) : Statement (.drw x y n) := selected (by decide) (and_formXYN_op _ _ _ _)

/-- R55. -/
theorem skp (x : Reg) : Statement (.skp x) := selected (by decide) (and_formX _ _ _)

/-- R55. -/
theorem sknp (x : Reg) : Statement (.sknp x) := selected (by decide) (and_formX _ _ _)

/-- R55. -/
theorem ldFromDT (x : Reg) : Statement (.ldFromDT x) := selected (by decide) (and_formX _ _ _)

/-- R55. -/
theorem ldKey (x : Reg) : Statement (.ldKey x) := selected (by decide) (and_formX _ _ _)

/-- R55. -/
theorem ldToDT (x : Reg) : Statement (.ldToDT x) := selected (by decide) (and_formX _ _ _)

/-- R55. -/
theorem ldToST (x : Reg) : Statement (.ldToST x) := selected (by decide) (and_formX _ _ _)

/-- R55. -/
theorem addI (x : Reg) : Statement (.addI x) := selected (by decide) (and_formX _ _ _)

/-- R55. -/
theorem ldFont (x : Reg) : Statement (.ldFont x) := selected (by decide) (and_formX _ _ _)

/-- R55. -/
theorem ldBcd (x : Reg) : Statement (.ldBcd x) := selected (by decide) (and_formX _ _ _)

/-- R55. -/
theorem storeRegs (x : Reg) : Statement (.storeRegs x) := selected (by decide) (and_formX _ _ _)

/-- R55. -/
theorem loadRegs (x : Reg) : Statement (.loadRegs x) := selected (by decide) (and_formX _ _ _)

end Sys2Proof.Laws.Encodes
end

