-- ==== Sys2Proof/Tests/Slice0.lean ====
section
/-! SUPPORT. Small tests, each one step of a small state, with the expected result taken from the vectors of
spec/95_test_vectors.md named in the comment; the smoke tests of WellFormed; the words of the encodings, written out; and for
every statement that has hypotheses, a witness that meets them. -/

namespace Sys2Proof.Tests

open Sys2Proof.Machine

/-! ### What is ill formed is refused -/

/-- One unknown word for each family that has any (R57). -/
theorem test_ill_formed_words :
    wordDefined 0x0000 = false ∧ wordDefined 0x00E1 = false ∧ wordDefined 0x01E0 = false ∧ wordDefined 0x5121 = false ∧
    wordDefined 0x8128 = false ∧ wordDefined 0x812F = false ∧ wordDefined 0x9AB1 = false ∧ wordDefined 0xE19F = false ∧
    wordDefined 0xF100 = false ∧ wordDefined 0xFFFF = false := by decide

/-- A program of 3584 bytes does not fit, one of 3583 does (H1, H2). -/
theorem test_ill_formed_program :
    programFits (List.replicate 3584 0xAB) = false ∧ programFits (List.replicate 3583 0xAB) = true := by
  simp only [programFits, List.length_replicate]
  decide

/-- Memory that is out of order, repeats, lists the reset contents or an absent address is not canonical. -/
theorem test_ill_formed_memory :
    Memory.wf [(0x301, 1), (0x300, 1)] = false ∧ Memory.wf [(0x300, 1), (0x300, 2)] = false ∧
    Memory.wf [(0x300, 0)] = false ∧ Memory.wf [(0, 0xF0)] = false ∧ Memory.wf [(4095, 1)] = false ∧
    Memory.wf [(0, 0), (0x300, 1), (4094, 2)] = true := by decide

/-- The table of R6, row by row, and the sizes of the state that follow from it. -/
theorem test_parameters :
    Config.xlenV = 8 ∧ Config.nreg = 16 ∧ Config.xlenI = 16 ∧ Config.xlenPc = 16 ∧ Config.ilen = 16 ∧
    Config.memSize = 4095 ∧ Config.memTop = Config.memSize - 1 ∧ Config.progBase = 0x200 ∧
    Config.progMax = Config.memSize - 512 ∧ Config.fontBase = 0x000 ∧ Config.font.length = 80 ∧ Config.stackDepth = 16 ∧
    Config.fbWidth = 64 ∧ Config.fbHeight = 32 ∧ Config.tickHz = 60 ∧ Config.shlFlagRaw = false ∧
    Config.lowWriteAllowed = true ∧ Config.keyIndexMask = 0x0F ∧ Config.fontIndexMask = 0x0F := by decide

/-- Every register, the stack, its count and the framebuffer have the sizes of Config. -/
theorem test_sizes_follow_config :
    Byte = BitVec Config.xlenV ∧ Word = BitVec Config.ilen ∧ Index = BitVec Config.xlenI ∧ Pc = BitVec Config.xlenPc ∧
    Reg = Fin Config.nreg ∧ Frame = Vector (BitVec Config.fbWidth) Config.fbHeight ∧
    State.reset.v.toList.length = Config.nreg ∧ State.reset.stack.toList.length = Config.stackDepth :=
  ⟨rfl, rfl, rfl, rfl, rfl, rfl, rfl, rfl⟩

/-! ### Encodings, written out from the patterns of R55, fields at R51's places -/

theorem test_words_flow :
    decodeWord 0x00E0 = .ok .cls ∧ decodeWord 0x00EE = .ok .ret ∧ decodeWord 0x1ABC = .ok (.jp 0xABC) ∧
    decodeWord 0x2300 = .ok (.call 0x300) ∧ decodeWord 0x3A42 = .ok (.seByte 10 0x42) ∧
    decodeWord 0x4A42 = .ok (.sneByte 10 0x42) ∧ decodeWord 0x5120 = .ok (.seReg 1 2) ∧
    decodeWord 0x9120 = .ok (.sneReg 1 2) ∧ decodeWord 0xBFFF = .ok (.jpV0 0xFFF) := by decide

theorem test_words_alu :
    decodeWord 0x6A55 = .ok (.ldByte 10 0x55) ∧ decodeWord 0x730A = .ok (.addByte 3 0x0A) ∧
    decodeWord 0x8120 = .ok (.ldReg 1 2) ∧ decodeWord 0x8121 = .ok (.orReg 1 2) ∧ decodeWord 0x8122 = .ok (.andReg 1 2) ∧
    decodeWord 0x8123 = .ok (.xorReg 1 2) ∧ decodeWord 0x8014 = .ok (.addReg 0 1) ∧ decodeWord 0x8125 = .ok (.subReg 1 2) ∧
    decodeWord 0x8356 = .ok (.shr 3 5) ∧ decodeWord 0x8127 = .ok (.subnReg 1 2) ∧ decodeWord 0x830E = .ok (.shl 3 0) ∧
    decodeWord 0xC30F = .ok (.rnd 3 0x0F) := by decide

theorem test_words_rest :
    decodeWord 0xA123 = .ok (.ldI 0x123) ∧ decodeWord 0xD125 = .ok (.drw 1 2 5) ∧ decodeWord 0xE19E = .ok (.skp 1) ∧
    decodeWord 0xE1A1 = .ok (.sknp 1) ∧ decodeWord 0xF207 = .ok (.ldFromDT 2) ∧ decodeWord 0xF30A = .ok (.ldKey 3) ∧
    decodeWord 0xF215 = .ok (.ldToDT 2) ∧ decodeWord 0xF218 = .ok (.ldToST 2) ∧ decodeWord 0xF11E = .ok (.addI 1) ∧
    decodeWord 0xF129 = .ok (.ldFont 1) ∧ decodeWord 0xF133 = .ok (.ldBcd 1) ∧ decodeWord 0xF255 = .ok (.storeRegs 2) ∧
    decodeWord 0xF265 = .ok (.loadRegs 2) := by decide

/-- The table's numbering of bits, and a word that is no instruction. -/
theorem test_table_words : decodeTableWord 16 0x8014 = some (.addReg 0 1) ∧ decodeTableWord 16 0x8128 = none := by decide

/-! ### One step -/

/-- The state after one step, or the same state if there is none. -/
def after (s : State) : State :=
  match step s with
  | .next t => t
  | _ => s

/-- The word at `pc` 0x200, everything else as after an empty `Load`, no key down, `RAND` 0. -/
def at200 (ir : Nat) : State := State.reset.withFetchWord 16 ir

/-- C1: an unknown opcode. -/
theorem test_unknown : (after (at200 0x0000)).pc = 0x202 ∧ (after (at200 0x0000)).reply = .unknown 0x0000 0x200 ∧
    (after (at200 0x0000)).status = .ready := by decide

/-- C13: the last address a fetch can use. -/
theorem test_fetch_last : (after (State.withFetchWord { State.reset with pc := 0xFFD } 16 0x6A55)).getV 10 = 0x55 ∧
    (after (State.withFetchWord { State.reset with pc := 0xFFD } 16 0x6A55)).pc = 0xFFF := by decide

/-- C14: the second byte would be at 0xFFF. -/
theorem test_fetch_out_of_bounds :
    (after { at200 0x6A55 with pc := 0xFFE }).err = .addressOutOfBounds ∧
    (after { at200 0x6A55 with pc := 0xFFE }).status = .halted ∧ (after { at200 0x6A55 with pc := 0xFFE }).pc = 0xFFE := by
  decide

/-- C19, C20, H0: an engine that is not ready. -/
theorem test_not_ready : (after State.reset).reply = .refused ∧ (after State.reset).pc = 0x200 ∧
    (after { at200 0x6A55 with status := .halted, err := .stackUnderflow }).reply = .fatal .stackUnderflow := by decide

/-- F1, F8, F9: the sum of `Bnnn` is not masked. -/
theorem test_jumps : (after (at200 0x1ABC)).pc = 0xABC ∧ (after ((at200 0xB300).setV 0 0x10)).pc = 0x310 ∧
    (after ((at200 0xBFFF).setV 0 0xFF)).pc = 0x10FE := by decide

/-- F3. -/
theorem test_call : (after (at200 0x2300)).pc = 0x300 ∧ (after (at200 0x2300)).sp = 1 ∧
    (after (at200 0x2300)).stack[0] = 0x202 := by decide

/-- F4: the seventeenth call. -/
theorem test_call_overflow : (after { at200 0x2300 with sp := 16 }).err = .stackOverflow ∧
    (after { at200 0x2300 with sp := 16 }).pc = 0x200 ∧ (after { at200 0x2300 with sp := 16 }).sp = 16 := by decide

/-- F5: the dead entry stays. -/
theorem test_ret : (after { at200 0x00EE with sp := 1, stack := (Vector.replicate 16 0).set 0 0x302 }).pc = 0x302 ∧
    (after { at200 0x00EE with sp := 1, stack := (Vector.replicate 16 0).set 0 0x302 }).sp = 0 ∧
    (after { at200 0x00EE with sp := 1, stack := (Vector.replicate 16 0).set 0 0x302 }).stack[0] = 0x302 := by decide

/-- F6, P5. -/
theorem test_ret_underflow : (after (at200 0x00EE)).err = .stackUnderflow ∧ (after (at200 0x00EE)).pc = 0x200 := by decide

/-- F11 to F20. -/
theorem test_skips :
    (after ((at200 0x3A42).setV 10 0x42)).pc = 0x204 ∧ (after ((at200 0x3A42).setV 10 0x43)).pc = 0x202 ∧
    (after ((at200 0x4A42).setV 10 0x42)).pc = 0x202 ∧ (after ((at200 0x4A42).setV 10 0x43)).pc = 0x204 ∧
    (after (((at200 0x5120).setV 1 9).setV 2 9)).pc = 0x204 ∧ (after (((at200 0x5120).setV 1 9).setV 2 8)).pc = 0x202 ∧
    (after (((at200 0x9120).setV 1 9).setV 2 8)).pc = 0x204 ∧ (after ((at200 0x9330).setV 3 0xEE)).pc = 0x202 := by decide

/-- F21: a skip past the end of memory is no error yet. -/
theorem test_skip_past_end : (after (State.withFetchWord { State.reset with pc := 0xFFC } 16 0x3000)).pc = 0x1000 ∧
    (after (State.withFetchWord { State.reset with pc := 0xFFC } 16 0x3000)).status = .ready := by decide

/-- A1, A3, A4. -/
theorem test_loads : (after (at200 0x6A55)).getV 10 = 0x55 ∧ (after ((at200 0x730A).setV 3 0xFA)).getV 3 = 0x04 ∧
    (after ((at200 0x730A).setV 3 0xFA)).getV 15 = 0 ∧ (after ((at200 0x7F0A).setV 15 0xFA)).getV 15 = 0x04 := by decide

/-- A6 to A9: no flag is written. -/
theorem test_logic :
    (after ((at200 0x8120).setV 2 0xAB)).getV 1 = 0xAB ∧
    (after ((((at200 0x8121).setV 1 0xF0).setV 2 0x0F).setV 15 0x77)).getV 1 = 0xFF ∧
    (after ((((at200 0x8122).setV 1 0xF0).setV 2 0x3C).setV 15 0x77)).getV 1 = 0x30 ∧
    (after ((((at200 0x8123).setV 1 0xF0).setV 2 0x3C).setV 15 0x77)).getV 1 = 0xCC ∧
    (after ((((at200 0x8123).setV 1 0xF0).setV 2 0x3C).setV 15 0x77)).getV 15 = 0x77 := by decide

/-- A10 to A13: 256 carries, 255 does not, the flag wins, and `VF` is an addend. -/
theorem test_add :
    (after (((at200 0x8124).setV 1 0xFF).setV 2 0x01)).getV 15 = 1 ∧
    (after ((((at200 0x8124).setV 1 0xFE).setV 2 0x01).setV 15 1)).getV 15 = 0 ∧
    (after (((at200 0x8F24).setV 15 0xFF).setV 2 0x01)).getV 15 = 1 ∧
    (after (((at200 0x82F4).setV 2 0x01).setV 15 0xFF)).getV 2 = 0 := by decide

/-- A15 to A18: strictly greater. -/
theorem test_sub :
    (after (((at200 0x8125).setV 1 0x10).setV 2 0x01)).getV 1 = 0x0F ∧
    (after (((at200 0x8125).setV 1 0x01).setV 2 0x10)).getV 1 = 0xF1 ∧
    (after ((((at200 0x8125).setV 1 0x42).setV 2 0x42).setV 15 1)).getV 15 = 0 ∧
    (after (((at200 0x8F25).setV 15 0x10).setV 2 0x01)).getV 15 = 1 := by decide

/-- A19 to A21. -/
theorem test_subn :
    (after (((at200 0x8127).setV 1 0x01).setV 2 0x10)).getV 1 = 0x0F ∧
    (after (((at200 0x8127).setV 1 0x01).setV 2 0x10)).getV 15 = 1 ∧
    (after (((at200 0x8127).setV 1 0x10).setV 2 0x01)).getV 1 = 0xF1 ∧
    (after ((((at200 0x8127).setV 1 0x42).setV 2 0x42).setV 15 1)).getV 15 = 0 := by decide

/-- A23 to A25. -/
theorem test_shr :
    (after (((at200 0x8306).setV 3 0xFE).setV 15 1)).getV 3 = 0x7F ∧
    (after (((at200 0x8306).setV 3 0xFE).setV 15 1)).getV 15 = 0 ∧
    (after (((at200 0x8356).setV 3 0x05).setV 5 0xFF)).getV 3 = 0x02 ∧
    (after ((at200 0x8F06).setV 15 0x03)).getV 15 = 0 := by decide

/-- A26, A29, A31; and the raw flag of A27 and A30 by the parameter. -/
theorem test_shl :
    (after ((at200 0x830E).setV 3 0x81)).getV 3 = 0x02 ∧ (after ((at200 0x830E).setV 3 0x81)).getV 15 = 1 ∧
    (after ((at200 0x8F0E).setV 15 0x80)).getV 15 = 2 ∧ (after ((at200 0x8F0E).setV 15 0x7F)).getV 15 = 0 ∧
    shlFlag true 0x81 = 0x80 ∧ shlFlag true 0x80 <<< 1 = 0 := by decide

/-- A32, A33: the random byte is the input of the step. -/
theorem test_rnd :
    (after { at200 0xC30F with hostOps := [.step 0 0xA7] }).getV 3 = 0x07 ∧
    (after ((State.setV { at200 0xC300 with hostOps := [.step 0 0xFF] }) 3 0x55)).getV 3 = 0 := by decide

/-- M1, M3, M4: 16 bits, no flag. -/
theorem test_index : (after (at200 0xA123)).i = 0x0123 ∧ (after (((at200 0xF11E).setI 0x0FFF).setV 1 1)).i = 0x1000 ∧
    (after ((((at200 0xF11E).setI 0xFFFF).setV 1 2).setV 15 0x55)).i = 0x0001 ∧
    (after ((((at200 0xF11E).setI 0xFFFF).setV 1 2).setV 15 0x55)).getV 15 = 0x55 := by decide

/-- M5 to M7. -/
theorem test_font : (after ((at200 0xF129).setV 1 0x0A)).i = 0x32 ∧ (after ((at200 0xF129).setV 1 0x1A)).i = 0x32 ∧
    (after ((at200 0xF129).setV 1 0xFF)).i = 0x4B := by decide

/-- M8, M11: the highest legal `I`. -/
theorem test_bcd :
    (after (((at200 0xF133).setI 0x300).setV 1 0xFF)).readBytes 0x300 3 = [2, 5, 5] ∧
    (after (((at200 0xF133).setI 0xFFC).setV 1 0x7B)).readBytes 0xFFC 3 = [1, 2, 3] := by decide

/-- M12, M13: one further is fatal and stores nothing; over the font the store is performed (`LOW_WRITE_ALLOWED`). -/
theorem test_bcd_bounds :
    (after (((at200 0xF133).setI 0xFFD).setV 1 0x7B)).err = .addressOutOfBounds ∧
    (after (((at200 0xF133).setI 0xFFD).setV 1 0x7B)).readBytes 0xFFD 2 = [0, 0] ∧
    (after (((at200 0xF133).setI 0x000).setV 1 0x7B)).readBytes 0x000 4 = [1, 2, 3, 0x90] ∧
    Config.lowWriteAllowed = true := by decide

/-- M15: `V3` is not stored. -/
theorem test_store :
    (after (((((at200 0xF255).setI 0x300).setV 0 1).setV 1 2).setV 2 3)).readBytes 0x300 4 = [1, 2, 3, 0] := by decide

/-- M16, M17, M18: sixteen bytes up to 0xFFE, and no wrap. -/
theorem test_store_bounds :
    (after (((at200 0xFF55).setI 0xFEF).setV 15 0x1F)).readByte 0xFFE = 0x1F ∧
    (after (((at200 0xFF55).setI 0xFF0).setV 0 0x10)).err = .addressOutOfBounds ∧
    (after (((at200 0xF155).setI 0xFFFF).setV 0 1)).err = .addressOutOfBounds := by decide

/-- M20: the first font bytes. -/
theorem test_load : (after (at200 0xFF65)).getV 0 = 0xF0 ∧ (after (at200 0xFF65)).getV 6 = 0x60 ∧
    (after (at200 0xFF65)).getV 15 = 0xF0 ∧ (after (at200 0xFF65)).i = 0 := by decide

/-- M21, M22. -/
theorem test_load_bounds :
    (after (((at200 0xF165).setI 0xFFE).setV 0 0x11)).err = .addressOutOfBounds ∧
    (after (((at200 0xF165).setI 0xFFE).setV 0 0x11)).getV 0 = 0x11 ∧
    (after (((at200 0xF065).setI 0xFFE).storeBytes 0xFFE [0x5A])).getV 0 = 0x5A := by decide

/-- G1: every pixel off, `VF` untouched. -/
theorem test_cls :
    (after (((at200 0x00E0).setFb (Vector.replicate 32 0xF)).setV 15 0x33)).fb = Vector.replicate 32 0 ∧
    (after (((at200 0x00E0).setFb (Vector.replicate 32 0xF)).setV 15 0x33)).getV 15 = 0x33 := by decide

/-- G5 and G6 in one: rows, columns and the wrap of a row; G9: a collision. -/
theorem test_draw :
    (after ((((at200 0xD122).setI 0x300).storeBytes 0x300 [0xFF, 0x81]).setV 1 0x3C)).fb[0] = 0xF00000000000000F#64 ∧
    (after ((((at200 0xD122).setI 0x300).storeBytes 0x300 [0xFF, 0x81]).setV 1 0x3C)).fb[1] = 0x1000000000000008#64 ∧
    (after ((((at200 0xD121).setI 0x300).storeBytes 0x300 [0xC0]).setFb ((Vector.replicate 32 0).set 0 1))).fb[0] = 2#64 ∧
    (after ((((at200 0xD121).setI 0x300).storeBytes 0x300 [0xC0]).setFb ((Vector.replicate 32 0).set 0 1))).getV 15 = 1 := by
  decide

/-- G13, G15, G16. -/
theorem test_draw_corners :
    (after (((at200 0xD120).setI 0xFFFF).setV 15 1)).getV 15 = 0 ∧
    (after (((at200 0xD122).setI 0xFFE).setV 15 1)).err = .addressOutOfBounds ∧
    (after (((at200 0xD122).setI 0xFFE).setV 15 1)).getV 15 = 1 ∧
    (after (((((at200 0xDF01).setI 0x300).storeBytes 0x300 [0x80]).setV 15 5).setV 0 2)).fb[2] = 0x20#64 := by decide

/-- K1 to K6. -/
theorem test_key_skips :
    (after ((State.setV { at200 0xE19E with hostOps := [.step 0x0020 0] }) 1 5)).pc = 0x204 ∧
    (after ((State.setV { at200 0xE19E with hostOps := [.step 0x0050 0] }) 1 5)).pc = 0x202 ∧
    (after ((State.setV { at200 0xE19E with hostOps := [.step 0x0400 0] }) 1 0x1A)).pc = 0x204 ∧
    (after ((at200 0xE1A1).setV 1 5)).pc = 0x204 ∧
    (after ((State.setV { at200 0xE1A1 with hostOps := [.step 0x0020 0] }) 1 0xF5)).pc = 0x202 := by decide

/-- K7, K8: the wait, and the lowest of two keys. -/
theorem test_key_wait :
    (after ((at200 0xF30A).setV 3 0x99)).pc = 0x200 ∧ (after ((at200 0xF30A).setV 3 0x99)).reply = .awaitKey ∧
    (after ((at200 0xF30A).setV 3 0x99)).getV 3 = 0x99 ∧
    (after { at200 0xF30A with hostOps := [.step 0x0280 0] }).getV 3 = 7 ∧
    (after { at200 0xF30A with hostOps := [.step 0x0280 0] }).pc = 0x202 := by decide

/-- K11 to K13. -/
theorem test_timers : (after ((at200 0xF207).setDt 0x3C)).getV 2 = 0x3C ∧
    (after (((at200 0xF215).setV 2 0x3C).setDt 5)).dt = 0x3C ∧ (after ((at200 0xF218).setV 2 5)).st = 5 := by decide

/-- T1, T6: each timer on its own, also while halted. -/
theorem test_tick :
    (after { State.reset with dt := 1, hostOps := [.tick] }).dt = 0 ∧
    (after { State.reset with dt := 1, hostOps := [.tick] }).st = 0 ∧
    (after { State.reset with dt := 2, status := .halted, err := .stackOverflow, hostOps := [.tick] }).dt = 1 := by decide

/-- P1's first bytes, loaded; the entry point and the byte order. -/
theorem test_load_program :
    (after { State.reset with hostOps := [.load [0x60, 0x0A]] }).fetchWord = 0x600A ∧
    (after { State.reset with hostOps := [.load [0x60, 0x0A]] }).status = .ready ∧
    (after { State.reset with hostOps := [.load [0x60, 0x0A]] }).pc = 0x200 := by decide

/-! ### Witnesses: for each statement with hypotheses, a case that meets them, clause by clause -/

theorem witness_decode_and_map : decodeWord 0x8014 = .ok (.addReg 0 1) ∧ wordDefined 0x0000 = false ∧
    (opcodeMap.any fun r => r.selects 0x1234) = true ∧ decodeTableWord 16 0x1234 = some (.jp 0x234) ∧
    Memory.wf State.reset.mem = true := by decide

theorem witness_starts_step :
    StartsStep (at200 0x6A55) { at200 0x6A55 with keys := 0, rand := 0, hostOps := [] } ∧
    StartsStep State.reset State.reset.drawInputs := ⟨.listed 0 0 [] rfl rfl, .free rfl rfl⟩

/-- The first and the last address a fetch can use, and the first it cannot. -/
theorem witness_step_runs :
    (at200 0x6A55).status = .ready ∧ (at200 0x6A55).pc.toNat + 1 ≤ 4094 ∧
    decodeBytes [(at200 0x6A55).readByte 0x200, (at200 0x6A55).readByte 0x201] = .ok (.ldByte 10 0x55, []) ∧
    (State.withFetchWord { State.reset with pc := 0xFFD } 16 0x6A55).pc.toNat + 1 ≤ 4094 ∧
    decodeWord ((at200 0x0000).readByte 0x200 ++ (at200 0x0000).readByte 0x201) = .error (.unknownOpcode 0x0000) ∧
    4094 ≤ ({ at200 0x6A55 with pc := 0xFFE } : State).pc.toNat := by decide

theorem witness_not_ready : State.reset.status = .notLoaded ∧
    ({ State.reset with status := .halted, err := .stackOverflow } : State).status = .halted := by decide

theorem witness_fatal_errors :
    fatalError (.call 0x300) { State.reset with sp := 16 } = .stackOverflow ∧
    fatalError (.call 0x300) { State.reset with sp := 15 } = .noError ∧
    fatalError .ret State.reset = .stackUnderflow ∧ fatalError .ret { State.reset with sp := 1 } = .noError ∧
    fatalError (.ldBcd 1) { State.reset with i := 0xFFD } = .addressOutOfBounds ∧
    fatalError (.ldBcd 1) { State.reset with i := 0xFFC } = .noError ∧
    fatalError (.storeRegs 15) { State.reset with i := 0xFF0 } = .addressOutOfBounds ∧
    fatalError (.loadRegs 15) { State.reset with i := 0xFEF } = .noError ∧
    fatalError (.drw 1 2 2) { State.reset with i := 0xFFE } = .addressOutOfBounds ∧
    fatalError (.drw 1 2 0) { State.reset with i := 0xFFFF } = .noError ∧
    fatalError (.ldKey 1) State.reset = .noError ∧ State.reset.anyKey = none := by decide

/-- A ready state, and the first target from which the next fetch fails. -/
theorem witness_jump_past_end : (at200 0x1FFE).status = .ready ∧ 4094 ≤ (0xFFE#12).toNat ∧ (0xFFD#12).toNat < 4094 ∧
    4094 ≤ (0xF00#12).toNat + (((at200 0xBF00).setV 0 0xFE).getV 0).toNat := by decide

theorem witness_exec_next : (∃ t, exec .cls State.reset = .next t) ∧ (∃ t, exec .ret State.reset = .next t) ∧
    ∃ t, step State.reset = .next t := ⟨⟨_, rfl⟩, ⟨_, rfl⟩, ⟨_, rfl⟩⟩

theorem witness_ended_halted : ({ State.reset with status := .halted, err := .stackOverflow } : State).Ended := .inl rfl

theorem witness_ended_jump : (at200 0x1200).Ended := .inr ⟨by decide, 0x200, by decide, by decide⟩

theorem witness_invariants : State.reset.Inv ∧ State.reset.PcBounded := by decide

/-- `SP` where the clauses of call and return meet. -/
theorem witness_stack :
    ({ State.reset with sp := 15 } : State).sp.val < 16 ∧ ({ State.reset with sp := 16 } : State).sp.val = 16 ∧
    ({ State.reset with sp := 1 } : State).sp.val = (0 : Fin 16).val + 1 ∧
    ({ State.reset with sp := 16 } : State).sp.val = (15 : Fin 16).val + 1 ∧ State.reset.sp.val = 0 := by decide

/-- The state after the sixteenth call still meets the premises of the return that follows it. -/
theorem witness_call_return : ∃ t, exec (.call 0x300) { State.reset with sp := 15 } = .next t ∧ t.sp = 16 ∧
    t.stack.getD 15 0 = State.reset.pc + 2 := ⟨_, rfl, rfl, rfl⟩

theorem witness_flag_register : (1 : Reg) ≠ vf ∧ (15 : Reg) = vf ∧ (2 : Reg) ≠ vf := by decide

/-- `I` where the bounds clauses of the memory instructions meet. -/
theorem witness_memory_bounds :
    Memory.wf State.reset.mem = true ∧
    ({ State.reset with i := 4092 } : State).base + 2 ≤ 4094 ∧ 4094 < ({ State.reset with i := 4093 } : State).base + 2 ∧
    ({ State.reset with i := 4079 } : State).base + (15 : Reg).val ≤ 4094 ∧
    4094 < ({ State.reset with i := 4080 } : State).base + (15 : Reg).val ∧
    ({ State.reset with i := 0x202 } : State).base = State.reset.pc.toNat + 2 := by decide

/-- `I` and `n` where the clauses of `Dxyn` meet. -/
theorem witness_draw_bounds :
    ({ State.reset with i := 4080 } : State).base + (15#4).toNat ≤ 4095 ∧
    4095 < ({ State.reset with i := 4081 } : State).base + (15#4).toNat ∧ 15#4 ≠ 0 := by decide

theorem witness_collision :
    State.collides { State.reset with fb := Vector.replicate 32 1 } 0 0 1 := ⟨0, 0, by decide, by decide⟩

theorem witness_no_collision : ¬ State.reset.collides 0 0 5 := by
  rintro ⟨r, c, h, -⟩
  have : ∀ r c, State.reset.pixel r c = false := fun r c => by simp [State.pixel, State.reset]
  simp [this] at h

theorem witness_keys : (∀ j, j < 7 → (0x0280#16).getLsbD j = false) ∧ (0x0280#16).getLsbD 7 = true ∧
    (∀ j, j < 15 → (0x8000#16).getLsbD j = false) ∧ (0x8000#16).getLsbD 15 = true ∧ State.reset.keys = 0 := by decide

theorem witness_ticks : ({ State.reset with hostOps := [.tick, .tick, .snapshot] } : State).hostOps =
    List.replicate 2 .tick ++ [.snapshot] := rfl

/-- `DT` rises in both ways it can. -/
theorem witness_delay_rises :
    (after { State.reset with hostOps := [.setDelay 5] }).dt.toNat = 5 ∧ State.reset.dt.toNat < 5 ∧
    ((at200 0xF215).setV 2 0x3C).dt.toNat < (after ((at200 0xF215).setV 2 0x3C)).dt.toNat ∧
    decodeWord ((at200 0xF215).setV 2 0x3C).fetchWord = .ok (.ldToDT 2) := by decide

/-- The largest program that fits, the smallest that does not, and the other host operations. -/
theorem witness_host_operations :
    (∃ s : State, s.hostOps = .load (List.replicate 3583 0xAB) :: []) ∧ (List.replicate 3583 0xAB#8).length ≤ 3583 ∧
    (∃ s : State, s.hostOps = .load (List.replicate 3584 0xAB) :: []) ∧ 3583 < (List.replicate 3584 0xAB#8).length ∧
    ∀ op : HostOp, ∃ s : State, s.hostOps = op :: [] :=
  ⟨⟨{ State.reset with hostOps := [.load (List.replicate 3583 0xAB)] }, rfl⟩, le_of_eq List.length_replicate,
    ⟨{ State.reset with hostOps := [.load (List.replicate 3584 0xAB)] }, rfl⟩,
    lt_of_lt_of_eq (by decide) List.length_replicate.symm,
    fun op => ⟨{ State.reset with hostOps := [op] }, rfl⟩⟩

end Sys2Proof.Tests
end

section
/-! Conditional skips (41_flow.md R90, R95 to R98): where a skip ends and what it leaves, said once for every condition; then
the two pairs of skips over registers, each as its condition. -/

namespace Sys2Proof.Machine

/-- A skip goes from `a` to `a + 4` or `a + 2` by its condition and leaves everything else (R90). -/
theorem State.skipWhen_pc_frame (s : State) (c : Bool) :
    ∃ t, s.skipWhen c = .next t ∧ t.pc = (if c then s.pc + 4 else s.pc + 2) ∧ Frames s t [] [] ∧ SameEngine s t := by
  refine ⟨_, s.skipWhen_eq c, ?pc, { regs_same := ?regs, parts_same := ?parts }, { status_same := ?status, err_same := ?err }⟩
  case pc => cases c <;> simp [BitVec.add_assoc]
  case regs => intro r _; simp
  case parts => intro p _; cases p <;> simp [Part.Same]
  case status => simp
  case err => simp

/-- A skip where two values are equal. -/
theorem State.skipWhen_beq (s : State) (a b : Byte) :
    ∃ t, s.skipWhen (a == b) = .next t ∧ t.pc = (if a = b then s.pc + 4 else s.pc + 2) ∧
      Frames s t [] [] ∧ SameEngine s t := by
  simpa only [beq_iff_eq] using s.skipWhen_pc_frame (a == b)

/-- A skip where two values differ. -/
theorem State.skipWhen_bne (s : State) (a b : Byte) :
    ∃ t, s.skipWhen (a != b) = .next t ∧ t.pc = (if a = b then s.pc + 2 else s.pc + 4) ∧
      Frames s t [] [] ∧ SameEngine s t := by
  simpa only [bne_iff_ne, ne_eq, ite_not] using s.skipWhen_pc_frame (a != b)

theorem exec_seByte (x : Reg) (kk : Byte) (s : State) :
    exec (.seByte x kk) s = s.skipWhen (s.getV x == kk) := rfl

theorem exec_sneByte (x : Reg) (kk : Byte) (s : State) :
    exec (.sneByte x kk) s = s.skipWhen (s.getV x != kk) := rfl

theorem exec_seReg (x y : Reg) (s : State) :
    exec (.seReg x y) s = s.skipWhen (s.getV x == s.getV y) := rfl

theorem exec_sneReg (x y : Reg) (s : State) :
    exec (.sneReg x y) s = s.skipWhen (s.getV x != s.getV y) := rfl

/-- Settles O27: both skips are `skipWhen`, on `V[x]` equal to and different from `kk`. -/
theorem skipOnByte : Obligations.SkipOnByte := by
  intro x kk s
  rw [exec_seByte, exec_sneByte]
  exact ⟨Laws.Encodes.and_formXKK 0x3 x kk, Laws.Encodes.and_formXKK 0x4 x kk, s.skipWhen_beq _ _, s.skipWhen_bne _ _⟩

/-- Settles O28: both skips are `skipWhen`, on `V[x]` equal to and different from `V[y]`; `x = y` is no special case. -/
theorem skipOnRegister : Obligations.SkipOnRegister := by
  intro x y s
  rw [exec_seReg, exec_sneReg]
  exact ⟨Laws.Encodes.and_formXYN 0x5 x y 0, Laws.Encodes.and_formXYN 0x9 x y 0, s.skipWhen_beq _ _, s.skipWhen_bne _ _⟩

end Sys2Proof.Machine
end

section
/-! Loads, additions and logic (42_alu.md R110 to R116, R122): the two shared ways such an instruction ends, a result alone and
a result with a flag after it, each said once with its frame; then the instructions as uses of them. -/

namespace Sys2Proof.Machine

variable {s t : State} {regs : List Reg} {parts : List Part}

/-- Advancing `pc` changes no register and no part. -/
theorem State.advance_frames (s : State) (regs : List Reg) (parts : List Part) : Frames s s.advance regs parts where
  regs_same r _ := s.advance_getV r
  parts_same p _ := by cases p <;> simp [Part.Same]

/-- A write to a register that may change keeps the frame. -/
theorem Frames.setV (h : Frames s t regs parts) {x : Reg} (hx : x ∈ regs) (b : Byte) :
    Frames s (t.setV x b) regs parts where
  regs_same r hr := (t.setV_getV_other b (ne_of_mem_of_not_mem hx hr).symm).trans (h.regs_same r hr)
  parts_same p hp := by
    have hsame := h.parts_same p hp
    cases p <;> simpa [Part.Same] using hsame

/-- The reply is outside every frame. -/
theorem Frames.setReply (h : Frames s t regs parts) (r : Reply) : Frames s (t.setReply r) regs parts where
  regs_same q hq := (t.setReply_getV r q).trans (h.regs_same q hq)
  parts_same p hp := by
    have hsame := h.parts_same p hp
    cases p <;> simpa [Part.Same] using hsame

/-- A result goes to its register and nowhere else (R110). -/
theorem State.result_spec (s : State) (x : Reg) (b : Byte) :
    ∃ t, s.result x b = .next t ∧ t.getV x = b ∧ t.pc = s.pc + 2 ∧ Frames s t [x] [] ∧ SameEngine s t :=
  ⟨_, s.result_eq x b, by simp, rfl,
    ((s.advance_frames [x] []).setV List.mem_cons_self b).setReply .done, ⟨rfl, rfl⟩⟩

/-- A result given as a number. -/
theorem State.result_toNat (s : State) (x : Reg) {b : Byte} {n : Nat} (hb : b.toNat = n) :
    ∃ t, s.result x b = .next t ∧ (t.getV x).toNat = n ∧ t.pc = s.pc + 2 ∧ Frames s t [x] [] ∧ SameEngine s t := by
  obtain ⟨t, hnext, hval, hrest⟩ := s.result_spec x b
  exact ⟨t, hnext, hval ▸ hb, hrest⟩

/-- A result given bit by bit. -/
theorem State.result_bits (s : State) (x : Reg) {b : Byte} {f : Nat → Bool} (hb : ∀ k, b.getLsbD k = f k) :
    ∃ t, s.result x b = .next t ∧ (∀ k, (t.getV x).getLsbD k = f k) ∧ t.pc = s.pc + 2 ∧
      Frames s t [x] [] ∧ SameEngine s t := by
  obtain ⟨t, hnext, hval, hrest⟩ := s.result_spec x b
  exact ⟨t, hnext, hval ▸ hb, hrest⟩

/-- A result and then a flag: the flag is what `VF` ends with, so the result stays only where `x` is not `F` (R111). -/
theorem State.resultThenFlag_spec (s : State) (x : Reg) (b flag : Byte) :
    ∃ t, s.resultThenFlag x b flag = .next t ∧ (x ≠ vf → t.getV x = b) ∧ t.getV vf = flag ∧ t.pc = s.pc + 2 ∧
      Frames s t [x, vf] [] ∧ SameEngine s t := by
  refine ⟨_, s.resultThenFlag_eq x b flag, ?result, by simp, rfl, ?frame, ⟨rfl, rfl⟩⟩
  case result =>
    intro hx
    rw [State.setReply_getV, State.setV_getV_other _ _ hx, State.setV_getV_same]
  case frame =>
    exact (((s.advance_frames [x, vf] []).setV (by simp) b).setV (by simp) flag).setReply .done

theorem flagByte_decide (p : Prop) [Decidable p] : flagByte (decide p) = if p then 1 else 0 := by
  simp [flagByte]

theorem exec_ldByte (x : Reg) (kk : Byte) (s : State) : exec (.ldByte x kk) s = s.result x kk := rfl

theorem exec_addByte (x : Reg) (kk : Byte) (s : State) : exec (.addByte x kk) s = s.result x (s.getV x + kk) := rfl

theorem exec_ldReg (x y : Reg) (s : State) : exec (.ldReg x y) s = s.result x (s.getV y) := rfl

theorem exec_orReg (x y : Reg) (s : State) : exec (.orReg x y) s = s.result x (s.getV x ||| s.getV y) := rfl

theorem exec_andReg (x y : Reg) (s : State) : exec (.andReg x y) s = s.result x (s.getV x &&& s.getV y) := rfl

theorem exec_xorReg (x y : Reg) (s : State) : exec (.xorReg x y) s = s.result x (s.getV x ^^^ s.getV y) := rfl

theorem exec_addReg (x y : Reg) (s : State) :
    exec (.addReg x y) s = s.resultThenFlag x (s.getV x + s.getV y) (carryFlag (s.getV x) (s.getV y)) := rfl

end Sys2Proof.Machine

namespace Sys2Proof.Machine

/-- Settles O30: the immediate is the result. -/
theorem loadImmediate : Obligations.LoadImmediate := by
  intro x kk s
  rw [exec_ldByte]
  exact ⟨Laws.Encodes.and_formXKK 0x6 x kk, s.result_spec x kk⟩

/-- Settles O31: addition of bytes is addition modulo 256. -/
theorem addImmediate : Obligations.AddImmediate := by
  intro x kk s
  rw [exec_addByte]
  exact ⟨Laws.Encodes.and_formXKK 0x7 x kk, s.result_toNat x (BitVec.toNat_add _ _)⟩

/-- Settles O32: the result is `V[y]` on entry; `x = y` is no special case. -/
theorem copyRegister : Obligations.CopyRegister := by
  intro x y s
  rw [exec_ldReg]
  exact ⟨Laws.Encodes.and_formXYN 0x8 x y 0x0, s.result_spec x (s.getV y)⟩

/-- Settles O33: each of the three results is given bit by bit. -/
theorem logicIsBitwise : Obligations.LogicIsBitwise := by
  intro x y s
  rw [exec_orReg, exec_andReg, exec_xorReg]
  exact ⟨Laws.Encodes.and_formXYN 0x8 x y 0x1, Laws.Encodes.and_formXYN 0x8 x y 0x2,
    Laws.Encodes.and_formXYN 0x8 x y 0x3, s.result_bits x fun _ => BitVec.getLsbD_or,
    s.result_bits x fun _ => BitVec.getLsbD_and, s.result_bits x fun _ => BitVec.getLsbD_xor⟩

/-- Settles O34: the carry is taken from the values on entry and written after the sum. -/
theorem addWithCarry : Obligations.AddWithCarry := by
  intro x y s
  rw [exec_addReg]
  obtain ⟨t, hnext, hsum, hflag, hrest⟩ :=
    s.resultThenFlag_spec x (s.getV x + s.getV y) (carryFlag (s.getV x) (s.getV y))
  refine ⟨Laws.Encodes.and_formXYN 0x8 x y 0x4, t, hnext, fun hx => ?sum, ?carry, hrest⟩
  case sum => rw [hsum hx, BitVec.toNat_add]
  case carry => rw [hflag, carryFlag, flagByte_decide]

end Sys2Proof.Machine
end

section
/-! The index register (43_index_memory.md R130): the shared way an instruction that writes only `I` ends, said once with its
frame; then `Annn` as a use of it. -/

namespace Sys2Proof.Machine

/-- A write to `I` keeps the frame where `I` may change. -/
theorem Frames.setI {s t : State} {regs : List Reg} {parts : List Part} (h : Frames s t regs parts)
    (hi : .index ∈ parts) (w : Index) : Frames s (t.setI w) regs parts where
  regs_same r hr := (t.setI_getV w r).trans (h.regs_same r hr)
  parts_same p hp := by
    have hsame := h.parts_same p hp
    cases p with
    | index => exact absurd hi hp
    | _ => simpa [Part.Same] using hsame

/-- A new index goes to `I` and nowhere else, whatever its value: no bound is checked. -/
theorem State.setI_complete_toNat (s : State) {w : Index} {n : Nat} (hw : w.toNat = n) :
    ∃ t, (s.advance.setI w).complete = .next t ∧ t.i.toNat = n ∧ t.pc = s.pc + 2 ∧
      Frames s t [] [.index] ∧ SameEngine s t :=
  ⟨_, State.complete_eq _, hw, rfl,
    ((s.advance_frames [] [.index]).setI List.mem_cons_self w).setReply .done, ⟨rfl, rfl⟩⟩

theorem exec_ldI (nnn : Addr12) (s : State) : exec (.ldI nnn) s = (s.advance.setI (zext16 nnn)).complete := rfl

/-- Settles O39: `nnn` has 12 bits, so widening it to the 16 of `I` keeps its value; 0xFFF is no special case. -/
theorem loadIndex : Obligations.LoadIndex := by
  intro nnn s
  rw [exec_ldI]
  have hwiden : (zext16 nnn).toNat = nnn.toNat := BitVec.toNat_setWidth_of_le (by decide)
  exact ⟨Laws.Encodes.and_formNNN 0xA nnn, s.setI_complete_toNat hwiden⟩

end Sys2Proof.Machine
end

section
/-! Clearing the screen (44_display.md R141): what a write to the screen keeps, and the blank frame pixel by pixel; then `00E0`
as a use of them. -/

namespace Sys2Proof.Machine

/-- A write to the screen keeps the frame where the display may change. -/
theorem Frames.setFb {s t : State} {regs : List Reg} {parts : List Part} (h : Frames s t regs parts)
    (hd : .display ∈ parts) (f : Frame) : Frames s (t.setFb f) regs parts where
  regs_same r hr := (t.setFb_getV f r).trans (h.regs_same r hr)
  parts_same p hp := by
    have hsame := h.parts_same p hp
    cases p with
    | display => exact absurd hd hp
    | _ => simpa [Part.Same] using hsame

/-- A screen whose every row is 0 has no pixel set. -/
theorem State.pixel_of_fb_blank {t : State} (h : t.fb = Vector.replicate _ 0) (r : Row) (c : Column) :
    t.pixel r c = false := by
  simp [State.pixel, h]

theorem exec_cls (s : State) : exec .cls s = (s.advance.setFb (Vector.replicate _ 0)).complete := rfl

/-- Settles O47: the screen becomes the blank frame whatever it was, and no other part is written. -/
theorem clearZerosEveryPixel : Obligations.ClearZerosEveryPixel := by
  intro s
  rw [exec_cls]
  have hframe : Frames s (s.advance.setFb (Vector.replicate _ 0)) [] [.display] :=
    (s.advance_frames [] [.display]).setFb List.mem_cons_self _
  exact ⟨by decide, _, State.complete_eq _, State.pixel_of_fb_blank rfl, rfl, hframe.setReply .done, ⟨rfl, rfl⟩⟩

end Sys2Proof.Machine
end

section
/-! The timers (45_keys_timers.md R154 to R156): what a write to a timer keeps, and the shared way an instruction that writes
only that timer ends; then `Fx07`, `Fx15` and `Fx18` as uses of them. -/

namespace Sys2Proof.Machine

section
variable {s t : State} {regs : List Reg} {parts : List Part}

/-- A write to the delay timer keeps the frame where that timer may change. -/
theorem Frames.setDt (h : Frames s t regs parts) (hd : .delayTimer ∈ parts) (b : Byte) :
    Frames s (t.setDt b) regs parts where
  regs_same r hr := (t.setDt_getV b r).trans (h.regs_same r hr)
  parts_same p hp := by
    have hsame := h.parts_same p hp
    cases p with
    | delayTimer => exact absurd hd hp
    | _ => simpa [Part.Same] using hsame

/-- A write to the sound timer keeps the frame where that timer may change. -/
theorem Frames.setSt (h : Frames s t regs parts) (hs : .soundTimer ∈ parts) (b : Byte) :
    Frames s (t.setSt b) regs parts where
  regs_same r hr := (t.setSt_getV b r).trans (h.regs_same r hr)
  parts_same p hp := by
    have hsame := h.parts_same p hp
    cases p with
    | soundTimer => exact absurd hs hp
    | _ => simpa [Part.Same] using hsame

end

/-- A new delay goes to `DT` and nowhere else (R155). -/
theorem State.setDt_complete_spec (s : State) (b : Byte) :
    ∃ t, (s.advance.setDt b).complete = .next t ∧ t.dt = b ∧ t.pc = s.pc + 2 ∧
      Frames s t [] [.delayTimer] ∧ SameEngine s t :=
  ⟨_, State.complete_eq _, rfl, rfl,
    ((s.advance_frames [] [.delayTimer]).setDt List.mem_cons_self b).setReply .done, ⟨rfl, rfl⟩⟩

/-- A new sound count goes to `ST` and nowhere else (R156). -/
theorem State.setSt_complete_spec (s : State) (b : Byte) :
    ∃ t, (s.advance.setSt b).complete = .next t ∧ t.st = b ∧ t.pc = s.pc + 2 ∧
      Frames s t [] [.soundTimer] ∧ SameEngine s t :=
  ⟨_, State.complete_eq _, rfl, rfl,
    ((s.advance_frames [] [.soundTimer]).setSt List.mem_cons_self b).setReply .done, ⟨rfl, rfl⟩⟩

theorem exec_ldFromDT (x : Reg) (s : State) : exec (.ldFromDT x) s = s.result x s.dt := rfl

theorem exec_ldToDT (x : Reg) (s : State) : exec (.ldToDT x) s = (s.advance.setDt (s.getV x)).complete := rfl

theorem exec_ldToST (x : Reg) (s : State) : exec (.ldToST x) s = (s.advance.setSt (s.getV x)).complete := rfl

/-- Settles O53: the result is `DT` on entry, and reading the timer does not write it. -/
theorem readDelayTimer : Obligations.ReadDelayTimer := by
  intro x s
  rw [exec_ldFromDT]
  exact ⟨Laws.Encodes.and_formX 0xF x 0x07, s.result_spec x s.dt⟩

/-- Settles O54: each instruction writes `V[x]` on entry to its own timer, so the other timer stays in the frame. -/
theorem writeTimers : Obligations.WriteTimers := by
  intro x s
  rw [exec_ldToDT, exec_ldToST]
  exact ⟨Laws.Encodes.and_formX 0xF x 0x15, Laws.Encodes.and_formX 0xF x 0x18,
    s.setDt_complete_spec (s.getV x), s.setSt_complete_spec (s.getV x)⟩

end Sys2Proof.Machine
end

section
/-! The decoder against the encoder and against the opcode map (30_encoding.md R51 to R60): a word is its fields glued back
together, so each decoded form is the encoding of its fields; a row's mask says which fields the row fixes. -/

namespace Sys2Proof

theorem formNNN_fields (w : Word) : formNNN (opField w) (nnnField w) = w :=
  (BitVec.extractLsb'_append_extractLsb'_eq_extractLsb' rfl).trans (extract_all w)

theorem formXKK_fields (w : Word) : formXKK (opField w) (xField w) (kkField w) = w := by
  have hhigh : opField w ++ regBits (xField w) = w.extractLsb' 8 8 :=
    BitVec.extractLsb'_append_extractLsb'_eq_extractLsb' rfl
  rw [formXKK, hhigh]
  exact (BitVec.extractLsb'_append_extractLsb'_eq_extractLsb' rfl).trans (extract_all w)

theorem formXYN_fields (w : Word) : formXYN (opField w) (xField w) (yField w) (nField w) = w := by
  have hlow : regBits (yField w) ++ nField w = kkField w := BitVec.extractLsb'_append_extractLsb'_eq_extractLsb' rfl
  rw [formXYN, hlow]
  exact formXKK_fields w

section
variable {w : Word} {op : Nibble}

theorem formNNN_of_fields (ho : opField w = op) : formNNN op (nnnField w) = w :=
  ho ▸ formNNN_fields w

theorem formXKK_of_fields (ho : opField w = op) : formXKK op (xField w) (kkField w) = w :=
  ho ▸ formXKK_fields w

theorem formX_of_fields {sub : Byte} (ho : opField w = op) (hk : kkField w = sub) : formX op (xField w) sub = w :=
  hk ▸ formXKK_of_fields ho

theorem formXYN_of_fields {n : Nibble} (ho : opField w = op) (hn : nField w = n) :
    formXYN op (xField w) (yField w) n = w :=
  ho ▸ hn ▸ formXYN_fields w

end

theorem decodeWord_encode (i : Instr) : decodeWord (encode i) = .ok i := by
  cases i with
  | cls => decide
  | ret => decide
  | _ => simp [decodeWord, encode, decodeFamily8, decodeFamilyE, decodeFamilyF]

/-- Settles O2: the fields of a formed word are the ones it was formed from, and they choose the arm of the decoder. -/
theorem decodeInvertsEncode : Obligations.DecodeInvertsEncode := by
  intro i rest
  refine ⟨decodeWord_encode i, ?_⟩
  rw [encodeBytes, decodeBytes_wordBytes, decodeWord_encode]
  rfl

section
variable {w : Word}

/-- The sixteen values of a digit. -/
theorem digit_cases : ∀ op : Nibble,
    op = 0x0 ∨ op = 0x1 ∨ op = 0x2 ∨ op = 0x3 ∨ op = 0x4 ∨ op = 0x5 ∨ op = 0x6 ∨ op = 0x7 ∨
    op = 0x8 ∨ op = 0x9 ∨ op = 0xA ∨ op = 0xB ∨ op = 0xC ∨ op = 0xD ∨ op = 0xE ∨ op = 0xF := by decide

/-! What the decoder answers in each family (R54). -/

theorem decodeWord_family0 (ho : opField w = 0x0) : decodeWord w = decodeFamily0 w := by
  rw [decodeWord, ho]; rfl

theorem decodeWord_family1 (ho : opField w = 0x1) : decodeWord w = .ok (.jp (nnnField w)) := by
  rw [decodeWord, ho]; rfl

theorem decodeWord_family2 (ho : opField w = 0x2) : decodeWord w = .ok (.call (nnnField w)) := by
  rw [decodeWord, ho]; rfl

theorem decodeWord_family3 (ho : opField w = 0x3) : decodeWord w = .ok (.seByte (xField w) (kkField w)) := by
  rw [decodeWord, ho]; rfl

theorem decodeWord_family4 (ho : opField w = 0x4) : decodeWord w = .ok (.sneByte (xField w) (kkField w)) := by
  rw [decodeWord, ho]; rfl

theorem decodeWord_family5 (ho : opField w = 0x5) : decodeWord w =
    if nField w = 0x0 then .ok (.seReg (xField w) (yField w)) else .error (.unknownOpcode w) := by
  rw [decodeWord, ho]; rfl

theorem decodeWord_family6 (ho : opField w = 0x6) : decodeWord w = .ok (.ldByte (xField w) (kkField w)) := by
  rw [decodeWord, ho]; rfl

theorem decodeWord_family7 (ho : opField w = 0x7) : decodeWord w = .ok (.addByte (xField w) (kkField w)) := by
  rw [decodeWord, ho]; rfl

theorem decodeWord_family8 (ho : opField w = 0x8) : decodeWord w = decodeFamily8 w := by
  rw [decodeWord, ho]; rfl

theorem decodeWord_family9 (ho : opField w = 0x9) : decodeWord w =
    if nField w = 0x0 then .ok (.sneReg (xField w) (yField w)) else .error (.unknownOpcode w) := by
  rw [decodeWord, ho]; rfl

theorem decodeWord_familyA (ho : opField w = 0xA) : decodeWord w = .ok (.ldI (nnnField w)) := by
  rw [decodeWord, ho]; rfl

theorem decodeWord_familyB (ho : opField w = 0xB) : decodeWord w = .ok (.jpV0 (nnnField w)) := by
  rw [decodeWord, ho]; rfl

theorem decodeWord_familyC (ho : opField w = 0xC) : decodeWord w = .ok (.rnd (xField w) (kkField w)) := by
  rw [decodeWord, ho]; rfl

theorem decodeWord_familyD (ho : opField w = 0xD) : decodeWord w = .ok (.drw (xField w) (yField w) (nField w)) := by
  rw [decodeWord, ho]; rfl

theorem decodeWord_familyE (ho : opField w = 0xE) : decodeWord w = decodeFamilyE w := by
  rw [decodeWord, ho]; rfl

theorem decodeWord_familyF (ho : opField w = 0xF) : decodeWord w = decodeFamilyF w := by
  rw [decodeWord, ho]; rfl

end

/-- The words of R57's table. -/
def UnknownWord (w : Word) : Prop :=
  (opField w = 0x0 ∧ w ≠ 0x00E0 ∧ w ≠ 0x00EE) ∨
  (opField w = 0x5 ∧ nField w ≠ 0x0) ∨
  (opField w = 0x8 ∧ nField w ∈ [0x8#4, 0x9#4, 0xA#4, 0xB#4, 0xC#4, 0xD#4, 0xF#4]) ∨
  (opField w = 0x9 ∧ nField w ≠ 0x0) ∨
  (opField w = 0xE ∧ kkField w ∉ [0x9E#8, 0xA1#8]) ∨
  (opField w = 0xF ∧ kkField w ∉ [0x07#8, 0x0A#8, 0x15#8, 0x18#8, 0x1E#8, 0x29#8, 0x33#8, 0x55#8, 0x65#8])

/-- A decoder's answer on `w`: that `w` is unknown where `bad` holds, and an instruction whose word is `w` elsewhere. -/
def Answers (w : Word) (o : Except DecodeError Instr) (bad : Prop) : Prop :=
  ¬ bad ∧ (∃ i, o = .ok i ∧ encode i = w) ∨ bad ∧ o = .error (.unknownOpcode w)

section
variable {w : Word} {i : Instr} {o : Except DecodeError Instr} {bad bad' c : Prop}

theorem Answers.ok (h : encode i = w) (hb : ¬ bad) : Answers w (.ok i) bad :=
  .inl ⟨hb, i, rfl, h⟩

theorem Answers.unknown : Answers w (.error (.unknownOpcode w)) True :=
  .inr ⟨trivial, rfl⟩

/-- One arm of a chain of tests. -/
theorem Answers.arm [Decidable c] (hi : c → encode i = w) (h : Answers w o bad) :
    Answers w (if c then .ok i else o) (¬ c ∧ bad) := by
  by_cases hc : c
  · exact .inl ⟨fun hbad => hbad.1 hc, i, if_pos hc, hi hc⟩
  · rwa [if_neg hc, and_iff_right hc]

theorem Answers.congr (h : Answers w o bad) (hb : bad ↔ bad') : Answers w o bad' :=
  propext hb ▸ h

theorem Answers.encode_eq (h : Answers w o bad) (ho : o = .ok i) : encode i = w := by
  obtain ⟨-, j, hj, he⟩ | ⟨-, he⟩ := h <;> simp_all

theorem Answers.ok_iff (h : Answers w o bad) : (∃ i, o = .ok i) ↔ ¬ bad := by
  obtain ⟨hb, j, hj, -⟩ | ⟨hb, he⟩ := h <;> simp [*]

theorem Answers.unknown_iff (h : Answers w o bad) : o = .error (.unknownOpcode w) ↔ bad := by
  obtain ⟨hb, j, hj, -⟩ | ⟨hb, he⟩ := h <;> simp [*]

end

section
variable {w : Word}

theorem answers_decodeFamily0 (w : Word) : Answers w (decodeFamily0 w) (w ≠ 0x00E0 ∧ w ≠ 0x00EE ∧ True) :=
  .arm Eq.symm <| .arm Eq.symm .unknown

theorem answers_decodeFamily8 (ho : opField w = 0x8) :
    Answers w (decodeFamily8 w) (nField w ∈ [0x8#4, 0x9#4, 0xA#4, 0xB#4, 0xC#4, 0xD#4, 0xF#4]) := by
  have hdigits : ∀ n : Nibble,
      (n ≠ 0x0 ∧ n ≠ 0x1 ∧ n ≠ 0x2 ∧ n ≠ 0x3 ∧ n ≠ 0x4 ∧ n ≠ 0x5 ∧ n ≠ 0x6 ∧ n ≠ 0x7 ∧ n ≠ 0xE ∧ True) ↔
      n ∈ [0x8#4, 0x9#4, 0xA#4, 0xB#4, 0xC#4, 0xD#4, 0xF#4] := by decide
  refine Answers.congr ?_ (hdigits (nField w))
  have hform {n : Nibble} (hn : nField w = n) := formXYN_of_fields ho hn
  exact .arm hform <| .arm hform <| .arm hform <| .arm hform <| .arm hform <| .arm hform <| .arm hform <| .arm hform <|
    .arm hform .unknown

theorem answers_decodeFamilyE (ho : opField w = 0xE) :
    Answers w (decodeFamilyE w) (kkField w ≠ 0x9E ∧ kkField w ≠ 0xA1 ∧ True) :=
  .arm (formX_of_fields ho) <| .arm (formX_of_fields ho) .unknown

theorem answers_decodeFamilyF (ho : opField w = 0xF) :
    Answers w (decodeFamilyF w)
      (kkField w ≠ 0x07 ∧ kkField w ≠ 0x0A ∧ kkField w ≠ 0x15 ∧ kkField w ≠ 0x18 ∧ kkField w ≠ 0x1E ∧ kkField w ≠ 0x29 ∧
        kkField w ≠ 0x33 ∧ kkField w ≠ 0x55 ∧ kkField w ≠ 0x65 ∧ True) := by
  have hform {sub : Byte} (hk : kkField w = sub) := formX_of_fields ho hk
  exact .arm hform <| .arm hform <| .arm hform <| .arm hform <| .arm hform <| .arm hform <| .arm hform <| .arm hform <|
    .arm hform .unknown

/-- The decoder keeps every field of a word it accepts, and it rejects the words of R57's table. -/
theorem answers_decodeWord (w : Word) : Answers w (decodeWord w) (UnknownWord w) := by
  rcases digit_cases (opField w) with h0 | h1 | h2 | h3 | h4 | h5 | h6 | h7 | h8 | h9 | hA | hB | hC | hD | hE | hF
  · rw [decodeWord_family0 h0]
    exact (answers_decodeFamily0 w).congr (by simp [UnknownWord, h0])
  · rw [decodeWord_family1 h1]
    exact .ok (formNNN_of_fields h1) (by simp [UnknownWord, h1])
  · rw [decodeWord_family2 h2]
    exact .ok (formNNN_of_fields h2) (by simp [UnknownWord, h2])
  · rw [decodeWord_family3 h3]
    exact .ok (formXKK_of_fields h3) (by simp [UnknownWord, h3])
  · rw [decodeWord_family4 h4]
    exact .ok (formXKK_of_fields h4) (by simp [UnknownWord, h4])
  · rw [decodeWord_family5 h5]
    exact (Answers.arm (formXYN_of_fields h5) .unknown).congr (by simp [UnknownWord, h5])
  · rw [decodeWord_family6 h6]
    exact .ok (formXKK_of_fields h6) (by simp [UnknownWord, h6])
  · rw [decodeWord_family7 h7]
    exact .ok (formXKK_of_fields h7) (by simp [UnknownWord, h7])
  · rw [decodeWord_family8 h8]
    exact (answers_decodeFamily8 h8).congr (by simp [UnknownWord, h8])
  · rw [decodeWord_family9 h9]
    exact (Answers.arm (formXYN_of_fields h9) .unknown).congr (by simp [UnknownWord, h9])
  · rw [decodeWord_familyA hA]
    exact .ok (formNNN_of_fields hA) (by simp [UnknownWord, hA])
  · rw [decodeWord_familyB hB]
    exact .ok (formNNN_of_fields hB) (by simp [UnknownWord, hB])
  · rw [decodeWord_familyC hC]
    exact .ok (formXKK_of_fields hC) (by simp [UnknownWord, hC])
  · rw [decodeWord_familyD hD]
    exact .ok (formXYN_of_fields hD rfl) (by simp [UnknownWord, hD])
  · rw [decodeWord_familyE hE]
    exact (answers_decodeFamilyE hE).congr (by simp [UnknownWord, hE])
  · rw [decodeWord_familyF hF]
    exact (answers_decodeFamilyF hF).congr (by simp [UnknownWord, hF])

theorem encode_of_decodeWord {i : Instr} (h : decodeWord w = .ok i) : encode i = w :=
  (answers_decodeWord w).encode_eq h

end

/-- Settles O3: each arm of the decoder keeps every field of the word. -/
theorem encodeInvertsDecode : Obligations.EncodeInvertsDecode := fun _ _ h => encode_of_decodeWord h

/-- Settles O6: only six families have an arm that ends in an error, and each says when. -/
theorem unknownOpcodesByFamily : Obligations.UnknownOpcodesByFamily := fun w => (answers_decodeWord w).unknown_iff

/-- Settles O1: the decoder evaluated on each word. -/
theorem specWordsDecode : Obligations.SpecWordsDecode := by
  unfold Obligations.SpecWordsDecode
  decide

/-! ### The opcode map -/

/-- Every instruction's word is in the opcode map. -/
theorem wordDefined_encode (i : Instr) : wordDefined (encode i) = true := by
  cases i with
  | cls => exact Laws.Encodes.cls
  | ret => exact Laws.Encodes.ret
  | jp nnn => exact Laws.Encodes.jp nnn
  | call nnn => exact Laws.Encodes.call nnn
  | seByte x kk => exact Laws.Encodes.seByte x kk
  | sneByte x kk => exact Laws.Encodes.sneByte x kk
  | seReg x y => exact Laws.Encodes.seReg x y
  | ldByte x kk => exact Laws.Encodes.ldByte x kk
  | addByte x kk => exact Laws.Encodes.addByte x kk
  | ldReg x y => exact Laws.Encodes.ldReg x y
  | orReg x y => exact Laws.Encodes.orReg x y
  | andReg x y => exact Laws.Encodes.andReg x y
  | xorReg x y => exact Laws.Encodes.xorReg x y
  | addReg x y => exact Laws.Encodes.addReg x y
  | subReg x y => exact Laws.Encodes.subReg x y
  | shr x y => exact Laws.Encodes.shr x y
  | subnReg x y => exact Laws.Encodes.subnReg x y
  | shl x y => exact Laws.Encodes.shl x y
  | sneReg x y => exact Laws.Encodes.sneReg x y
  | ldI nnn => exact Laws.Encodes.ldI nnn
  | jpV0 nnn => exact Laws.Encodes.jpV0 nnn
  | rnd x kk => exact Laws.Encodes.rnd x kk
  | drw x y n => exact Laws.Encodes.drw x y n
  | skp x => exact Laws.Encodes.skp x
  | sknp x => exact Laws.Encodes.sknp x
  | ldFromDT x => exact Laws.Encodes.ldFromDT x
  | ldKey x => exact Laws.Encodes.ldKey x
  | ldToDT x => exact Laws.Encodes.ldToDT x
  | ldToST x => exact Laws.Encodes.ldToST x
  | addI x => exact Laws.Encodes.addI x
  | ldFont x => exact Laws.Encodes.ldFont x
  | ldBcd x => exact Laws.Encodes.ldBcd x
  | storeRegs x => exact Laws.Encodes.storeRegs x
  | loadRegs x => exact Laws.Encodes.loadRegs x

section
variable {w p : Word}

theorem opField_of_and_F000 (h : w &&& 0xF000 = p) : opField w = opField p := by
  have hform := Laws.Encodes.and_formNNN (opField w) (nnnField w)
  rw [formNNN_fields, h] at hform
  rw [hform]
  exact (opField_formNNN (opField w) 0).symm

theorem fields_of_and_F00F (h : w &&& 0xF00F = p) : opField w = opField p ∧ nField w = nField p := by
  have hform := Laws.Encodes.and_formXYN (opField w) (xField w) (yField w) (nField w)
  rw [formXYN_fields, h] at hform
  rw [hform]
  exact ⟨(opField_formXYN (opField w) 0 0 (nField w)).symm, (nField_formXYN (opField w) 0 0 (nField w)).symm⟩

theorem fields_of_and_F0FF (h : w &&& 0xF0FF = p) : opField w = opField p ∧ kkField w = kkField p := by
  have hform := Laws.Encodes.and_formX (opField w) (xField w) (kkField w)
  rw [show formX (opField w) (xField w) (kkField w) = w from formXKK_fields w, h] at hform
  rw [hform]
  exact ⟨(opField_formX (opField w) 0 (kkField w)).symm, (kkField_formX (opField w) 0 (kkField w)).symm⟩

end

/-- A row of the opcode map fixes a whole word, a family, a family with its low digit, or a family with its low byte, and no
unknown word has what the row fixes. -/
theorem opcodeMap_kinds : ∀ r ∈ opcodeMap,
    r.mask = 0xFFFF ∧ r.pattern ∈ [0x00E0#16, 0x00EE#16] ∨
    r.mask = 0xF000 ∧ opField r.pattern ∉ [0x0#4, 0x5#4, 0x8#4, 0x9#4, 0xE#4, 0xF#4] ∨
    r.mask = 0xF00F ∧ (opField r.pattern ∈ [0x5#4, 0x9#4] ∧ nField r.pattern = 0x0 ∨
      opField r.pattern = 0x8 ∧ nField r.pattern ∉ [0x8#4, 0x9#4, 0xA#4, 0xB#4, 0xC#4, 0xD#4, 0xF#4]) ∨
    r.mask = 0xF0FF ∧ (opField r.pattern = 0xE ∧ kkField r.pattern ∈ [0x9E#8, 0xA1#8] ∨
      opField r.pattern = 0xF ∧
        kkField r.pattern ∈ [0x07#8, 0x0A#8, 0x15#8, 0x18#8, 0x1E#8, 0x29#8, 0x33#8, 0x55#8, 0x65#8]) := by decide

/-- A word that a row of the opcode map selects is not unknown: it agrees with the row on the fields the row fixes. -/
theorem not_unknownWord_of_wordDefined {w : Word} (h : wordDefined w = true) : ¬ UnknownWord w := by
  obtain ⟨r, hr, hsel⟩ := List.any_eq_true.1 h
  have hand : w &&& r.mask = r.pattern := beq_iff_eq.1 hsel
  rcases opcodeMap_kinds r hr with ⟨hm, hp⟩ | ⟨hm, hp⟩ | ⟨hm, hp⟩ | ⟨hm, hp⟩ <;> rw [hm] at hand
  case inl =>
    rw [show w &&& 0xFFFF = w from BitVec.and_allOnes] at hand
    rw [← hand, List.mem_pair] at hp
    rcases hp with rfl | rfl <;> unfold UnknownWord <;> decide
  case inr.inl =>
    rw [← opField_of_and_F000 hand] at hp
    simp_all [UnknownWord]
  case inr.inr.inl =>
    obtain ⟨hop, hn⟩ := fields_of_and_F00F hand
    rw [← hop, ← hn, List.mem_pair] at hp
    rcases hp with ⟨ho | ho, hn⟩ | ⟨ho, hn⟩ <;> simp [UnknownWord, ho, hn]
  case inr.inr.inr =>
    obtain ⟨hop, hkk⟩ := fields_of_and_F0FF hand
    rw [← hop, ← hkk] at hp
    rcases hp with ⟨ho, hk⟩ | ⟨ho, hk⟩ <;> simp [UnknownWord, ho, hk]

/-- Settles O4: what the decoder accepts it encodes again, and every encoding is in the map; what the map selects is not
unknown. -/
theorem decoderAgreesWithOpcodeMap : Obligations.DecoderAgreesWithOpcodeMap := by
  intro w
  have hok := (answers_decodeWord w).ok_iff
  have hiff : (∃ i, decodeWord w = .ok i) ↔ wordDefined w = true :=
    ⟨fun ⟨i, hi⟩ => encode_of_decodeWord hi ▸ wordDefined_encode i, fun h => hok.2 (not_unknownWord_of_wordDefined h)⟩
  refine ⟨hiff, fun hw => (answers_decodeWord w).unknown_iff.2 ?_⟩
  rw [← not_not (a := UnknownWord w), ← hok, hiff, hw]
  exact Bool.false_ne_true

/-- Two rows whose patterns agree on the bits that both masks keep are the same row. -/
theorem opcodeMap_apart : ∀ r₁ ∈ opcodeMap, ∀ r₂ ∈ opcodeMap,
    r₁.pattern &&& r₂.mask = r₂.pattern &&& r₁.mask → r₁ = r₂ := by decide

/-- Settles O5: the patterns of two rows that select one word agree on the bits that both masks keep. -/
theorem opcodeMapIsUnambiguous : Obligations.OpcodeMapIsUnambiguous := by
  refine ⟨rfl, fun w r₁ r₂ hr₁ hr₂ hsel₁ hsel₂ => opcodeMap_apart r₁ hr₁ r₂ hr₂ ?_⟩
  have hw₁ : w &&& r₁.mask = r₁.pattern := beq_iff_eq.1 hsel₁
  have hw₂ : w &&& r₂.mask = r₂.pattern := beq_iff_eq.1 hsel₂
  rw [← hw₁, ← hw₂, BitVec.and_assoc, BitVec.and_assoc, BitVec.and_comm r₁.mask]

end Sys2Proof
end

section
/-! What an instruction can answer, said once for all 34 (40_step_cycle.md R71, R77; 60_exceptions.md R164): a fatal error,
a key wait, or a completion whose effect stays in the access matrix, leaves the host's side alone and keeps the invariants
of memory and control flow. -/

namespace Sys2Proof.Machine

/-! ### The frame under the updates that are left -/

section
variable {s t : State} {regs : List Reg} {parts : List Part}

theorem Frames.of_same (hv : t.v = s.v) (hi : t.i = s.i) (hm : t.mem = s.mem) (hsp : t.sp = s.sp) (hk : t.stack = s.stack)
    (hf : t.fb = s.fb) (hd : t.dt = s.dt) (hs : t.st = s.st) : Frames s t regs parts where
  regs_same r _ := by simp only [State.getV, hv]
  parts_same p _ := by
    cases p with
    | memory => intro a; simp only [State.readByte, hm]
    | callStack => exact ⟨hsp, hk⟩
    | index => exact hi
    | display => exact hf
    | delayTimer => exact hd
    | soundTimer => exact hs

/-- A fatal error changes no register and no part. -/
theorem State.halted_frames (s : State) (e : Err) : Frames s (s.halted e) regs parts :=
  .of_same rfl rfl rfl rfl rfl rfl rfl rfl

/-- `pc` is outside every frame. -/
theorem Frames.setPc (h : Frames s t regs parts) (w : Pc) : Frames s (t.setPc w) regs parts where
  regs_same q hq := (t.setPc_getV w q).trans (h.regs_same q hq)
  parts_same p hp := by
    have hsame := h.parts_same p hp
    cases p <;> simpa [Part.Same] using hsame

theorem Frames.skipIf (h : Frames s t regs parts) (c : Bool) : Frames s (t.skipIf c) regs parts := by
  cases c with
  | false => exact h
  | true => exact h.setPc _

/-- A store keeps the frame where memory may change. -/
theorem Frames.storeBytes (h : Frames s t regs parts) (hm : .memory ∈ parts) (a : Nat) (bs : List Byte) :
    Frames s (t.storeBytes a bs) regs parts where
  regs_same q hq := (t.storeBytes_getV a bs q).trans (h.regs_same q hq)
  parts_same p hp := by
    have hsame := h.parts_same p hp
    cases p with
    | memory => exact absurd hm hp
    | _ => simpa [Part.Same] using hsame

/-- A write to `V[0]..V[x]` keeps the frame where these registers may change. -/
theorem Frames.setRange (h : Frames s t regs parts) {x : Reg} (hx : ∀ r, r ≤ x → r ∈ regs) (f : Nat → Byte) :
    Frames s (t.setRange x f) regs parts where
  regs_same q hq := by
    rw [State.setRange_getV, if_neg (mt (hx q) hq)]
    exact h.regs_same q hq
  parts_same p hp := by
    have hsame := h.parts_same p hp
    cases p <;> simpa [Part.Same] using hsame

theorem Frames.trans {u : State} (h : Frames s t regs parts) (h' : Frames t u regs parts) : Frames s u regs parts where
  regs_same r hr := (h'.regs_same r hr).trans (h.regs_same r hr)
  parts_same p hp := by
    have hst := h.parts_same p hp
    have htu := h'.parts_same p hp
    cases p with
    | memory => exact fun a => (htu a).trans (hst a)
    | callStack => exact ⟨htu.1.trans hst.1, htu.2.trans hst.2⟩
    | _ => exact Eq.trans htu hst

/-- A change of the stack and its count keeps the frame where the call stack may change. -/
theorem Frames.of_stack {k} {sp} (hk : .callStack ∈ parts) (ht : t = { s with stack := k, sp := sp }) :
    Frames s t regs parts where
  regs_same q _ := by rw [ht]; rfl
  parts_same p hp := by
    rw [ht]
    cases p with
    | callStack => exact absurd hk hp
    | memory => exact fun _ => rfl
    | _ => rfl

end

/-! ### The effect of a completed instruction -/

/-- What the matrix has no column for: `STATUS` and `ERR`, the host's side, and the list and the array that hold memory and
the stack, are the same. -/
structure Quiet (s u : State) : Prop where
  engine : SameEngine s u
  host : SameHost s u
  mem_same : u.mem = s.mem
  stack_same : u.stack = s.stack

/-- What completing `i` in `s` does, `u` being the state it leaves. A fetched instruction's `pc` is at most 4093 (R73). -/
structure Effect (i : Instr) (s u : State) : Prop where
  frames : Frames s u (regsWritten i) (partsWritten i)
  engine : SameEngine s u
  host : SameHost s u
  keeps_wf : Memory.wf s.mem = true → Memory.wf u.mem = true
  keeps_bound : s.pc.toNat ≤ 4093 → s.PcBounded → u.PcBounded

section
variable {i : Instr} {s u : State} {x : Reg}

theorem Effect.of_quiet (hf : Frames s u (regsWritten i) (partsWritten i))
    (hpc : s.pc.toNat ≤ 4093 → u.pc.toNat ≤ 0x10FE)
    (hq : Quiet s u := by exact ⟨⟨rfl, rfl⟩, ⟨rfl, rfl, rfl, rfl⟩, rfl, rfl⟩) : Effect i s u where
  frames := hf
  engine := hq.engine
  host := hq.host
  keeps_wf := by rw [hq.mem_same]; exact id
  keeps_bound hs hb := ⟨hpc hs, by rw [hq.stack_same]; exact hb.2⟩

/-- The advance of `pc` by 2 from a fetched instruction, and a skip after it, stay in the bound. -/
theorem toNat_add_two_le {w : Pc} {n : Nat} (h : w.toNat ≤ n) : (w + 2).toNat ≤ n + 2 := by
  rw [BitVec.toNat_add]
  exact (Nat.mod_le _ _).trans (Nat.add_le_add_right h 2)

theorem Effect.of_advanced (hf : Frames s u (regsWritten i) (partsWritten i)) (hpc : u.pc = s.pc + 2)
    (hq : Quiet s u := by exact ⟨⟨rfl, rfl⟩, ⟨rfl, rfl, rfl, rfl⟩, rfl, rfl⟩) : Effect i s u := by
  refine .of_quiet hf (fun h => ?_) hq
  rw [hpc]
  exact (toNat_add_two_le h).trans (by decide)

theorem Effect.result (hx : x ∈ regsWritten i) (b : Byte) : Effect i s (s.advance.setV x b) :=
  .of_advanced ((s.advance_frames _ _).setV hx b) rfl

theorem Effect.twoResults {y : Reg} (hx : x ∈ regsWritten i) (hy : y ∈ regsWritten i) (b c : Byte) :
    Effect i s ((s.advance.setV x b).setV y c) :=
  .of_advanced (((s.advance_frames _ _).setV hx b).setV hy c) rfl

theorem Quiet.of_advance (h : Quiet s.advance u) : Quiet s u where
  engine := ⟨h.engine.status_same, h.engine.err_same⟩
  host := ⟨h.host.keys_same, h.host.rand_same, h.host.hostOps_same, h.host.draws_same⟩
  mem_same := h.mem_same
  stack_same := h.stack_same

theorem State.setRange_quiet (s : State) (x : Reg) (f : Nat → Byte) : Quiet s (s.setRange x f) where
  engine := ⟨s.setRange_status x f, s.setRange_err x f⟩
  host := ⟨s.setRange_keys x f, s.setRange_rand x f, s.setRange_hostOps x f, s.setRange_draws x f⟩
  mem_same := s.setRange_mem x f
  stack_same := s.setRange_stack x f

theorem Effect.loadRange (hx : ∀ r, r ≤ x → r ∈ regsWritten i) (f : Nat → Byte) : Effect i s (s.advance.setRange x f) :=
  .of_advanced ((s.advance_frames _ _).setRange hx f) rfl
    (s.advance.setRange_quiet x f).of_advance

theorem Effect.setI (hi : .index ∈ partsWritten i) (w : Index) : Effect i s (s.advance.setI w) :=
  .of_advanced ((s.advance_frames _ _).setI hi w) rfl

theorem Effect.setDt (hd : .delayTimer ∈ partsWritten i) (b : Byte) : Effect i s (s.advance.setDt b) :=
  .of_advanced ((s.advance_frames _ _).setDt hd b) rfl

theorem Effect.setSt (hs : .soundTimer ∈ partsWritten i) (b : Byte) : Effect i s (s.advance.setSt b) :=
  .of_advanced ((s.advance_frames _ _).setSt hs b) rfl

theorem Effect.setFb (hd : .display ∈ partsWritten i) (f : Frame) : Effect i s (s.advance.setFb f) :=
  .of_advanced ((s.advance_frames _ _).setFb hd f) rfl

theorem Effect.draw (hd : .display ∈ partsWritten i) (hv : vf ∈ regsWritten i) (f : Frame) (b : Byte) :
    Effect i s ((s.advance.setFb f).setV vf b) :=
  .of_advanced (((s.advance_frames _ _).setFb hd f).setV hv b) rfl

theorem Effect.jump {w : Pc} (hw : w.toNat ≤ 0x10FE) : Effect i s (s.advance.setPc w) :=
  .of_quiet ((s.advance_frames _ _).setPc w) fun _ => hw

theorem Effect.skip (c : Bool) : Effect i s (s.advance.skipIf c) := by
  cases c with
  | false => exact .of_advanced (s.advance_frames _ _) rfl
  | true =>
    refine .of_quiet ((s.advance_frames _ _).skipIf true) fun h => ?_
    exact (toNat_add_two_le (toNat_add_two_le h)).trans (by decide)

/-- A store keeps the canonical form of memory. -/
theorem Effect.store (hm : .memory ∈ partsWritten i) (a : Nat) (bs : List Byte) :
    Effect i s (s.advance.storeBytes a bs) where
  frames := (s.advance_frames _ _).storeBytes hm a bs
  engine := ⟨rfl, rfl⟩
  host := ⟨rfl, rfl, rfl, rfl⟩
  keeps_wf h := Memory.writeList_wf h a bs
  keeps_bound hs hb := ⟨(toNat_add_two_le hs).trans (by decide), hb.2⟩

theorem zext16_toNat_le (nnn : Addr12) : (zext16 nnn).toNat ≤ 0xFFF := by
  have hlt := nnn.isLt
  rw [BitVec.toNat_setWidth_of_le (by decide)]
  omega

/-- The target of `Bnnn`, the exact sum, is at most 0xFFF + 0xFF (R94). -/
theorem jumpV0_toNat (nnn : Addr12) (b : Byte) : (zext16 nnn + zext16 b).toNat = nnn.toNat + b.toNat := by
  have hn := nnn.isLt
  have hb := b.isLt
  rw [BitVec.toNat_add, BitVec.toNat_setWidth_of_le (by decide), BitVec.toNat_setWidth_of_le (by decide)]
  exact Nat.mod_eq_of_lt (by omega)

theorem jumpV0_toNat_le (nnn : Addr12) (b : Byte) : (zext16 nnn + zext16 b).toNat ≤ 0x10FE := by
  have hn := nnn.isLt
  have hb := b.isLt
  rw [jumpV0_toNat]
  omega

theorem mem_regsWritten_loadRegs (x r : Reg) (h : r ≤ x) : r ∈ regsWritten (.loadRegs x) := by
  simp [regsWritten, h]

/-- The entry a call pushes is the address after it, and its target has 12 bits. -/
theorem Effect.call {nnn : Addr12} (h : s.advance.push s.advance.pc = some u) :
    Effect (.call nnn) s (u.setPc (zext16 nnn)) := by
  obtain ⟨-, -, hstack, hu⟩ := State.push_some h
  refine { frames := ?frames, engine := ?engine, host := ?host, keeps_wf := ?wf, keeps_bound := ?bound }
  case frames => exact ((s.advance_frames _ _).trans (.of_stack List.mem_cons_self hu)).setPc _
  case engine => rw [hu]; exact ⟨rfl, rfl⟩
  case host => rw [hu]; exact ⟨rfl, rfl, rfl, rfl⟩
  case wf => rw [hu]; exact id
  case bound =>
    intro hs hb
    refine ⟨(zext16_toNat_le nnn).trans (by decide), fun k => ?_⟩
    have hentry : (s.pc + 2).toNat ≤ 0xFFF := toNat_add_two_le hs
    simp only [State.setPc_stack, hstack, State.advance_pc, State.advance_stack, Fin.getElem_fin,
      Vector.getElem_setIfInBounds]
    split
    · exact hentry
    · exact hb.2 k

/-- An entry of the stack, or the 0 read beyond it. -/
theorem State.PcBounded.getD_le (h : s.PcBounded) (k : Nat) : (s.stack.getD k 0).toNat ≤ 0xFFF := by
  by_cases hk : k < 16
  · simpa [Vector.getD, hk] using h.2 ⟨k, hk⟩
  · simp [Vector.getD, hk]

/-- A return goes to an entry of the stack. -/
theorem Effect.ret {w : Pc} (h : s.advance.pop = some (w, u)) : Effect .ret s (u.setPc w) := by
  obtain ⟨-, -, hw, hu⟩ := State.pop_some h
  refine { frames := ?frames, engine := ?engine, host := ?host, keeps_wf := ?wf, keeps_bound := ?bound }
  case frames => exact ((s.advance_frames _ _).trans (.of_stack List.mem_cons_self hu)).setPc _
  case engine => rw [hu]; exact ⟨rfl, rfl⟩
  case host => rw [hu]; exact ⟨rfl, rfl, rfl, rfl⟩
  case wf => rw [hu]; exact id
  case bound =>
    intro _ hb
    refine ⟨?_, ?_⟩
    · rw [State.setPc_pc, hw]
      exact (hb.getD_le _).trans (by decide)
    · rw [hu]
      exact hb.2

end

/-! ### What every instruction answers -/

/-- The three ways an instruction can answer. -/
inductive ExecAnswers (i : Instr) (s : State) : Out → Prop
  | fatal (he : fatalError i s ≠ .noError) : ExecAnswers i s (.next (s.halted (fatalError i s)))
  | waits (hn : fatalError i s = .noError) (hi : ∃ x, i = .ldKey x) (hk : s.anyKey = none) :
      ExecAnswers i s (.next (s.setReply .awaitKey))
  | completes (u : State) (hn : fatalError i s = .noError) (heff : Effect i s u) : ExecAnswers i s u.complete

section
variable {i : Instr} {s u : State}

/-- An instruction that makes no data access raises nothing. -/
theorem no_error_of_no_access (hf : fatalError i s = if beyondMemory s.base 0 then .addressOutOfBounds else .noError) :
    fatalError i s = .noError :=
  hf.trans (if_neg fun h => absurd h.1 (by decide))

theorem ExecAnswers.plain (hf : fatalError i s = if beyondMemory s.base 0 then .addressOutOfBounds else .noError)
    (heff : Effect i s u) : ExecAnswers i s u.complete :=
  .completes u (no_error_of_no_access hf) heff

/-- An instruction that accesses `n` bytes from `I` on raises its bounds error or completes. -/
theorem ExecAnswers.guarded {n : Nat}
    (hf : fatalError i s = if beyondMemory s.base n then .addressOutOfBounds else .noError) (heff : Effect i s u) :
    ExecAnswers i s (s.guarded s.base n u.complete) := by
  by_cases hb : beyondMemory s.base n
  · have he : fatalError i s = .addressOutOfBounds := hf.trans (if_pos hb)
    rw [State.guarded_pos hb]
    exact he ▸ .fatal (by simp [he])
  · rw [State.guarded_neg hb]
    exact .completes u (hf.trans (if_neg hb)) heff

theorem execAnswers_call (nnn : Addr12) (s : State) : ExecAnswers (.call nnn) s (execCall nnn s) := by
  have hfull := s.advance.push_none s.advance.pc
  unfold execCall
  split
  next hp =>
    have he : fatalError (.call nnn) s = .stackOverflow := if_pos (hfull.1 hp)
    exact he ▸ .fatal (by simp [he])
  next t hp =>
    refine .completes _ (if_neg fun h => ?_) (.call hp)
    exact absurd ((hfull.2 h).symm.trans hp) (Option.some_ne_none t).symm

theorem execAnswers_ret (s : State) : ExecAnswers .ret s (execRet s) := by
  have hempty := s.advance.pop_none
  unfold execRet
  split
  next hp =>
    have he : fatalError .ret s = .stackUnderflow := if_pos (hempty.1 hp)
    exact he ▸ .fatal (by simp [he])
  next w t hp =>
    refine .completes _ (if_neg fun h => ?_) (.ret hp)
    exact absurd ((hempty.2 h).symm.trans hp) (Option.some_ne_none (w, t)).symm

theorem execAnswers_ldKey (x : Reg) (s : State) : ExecAnswers (.ldKey x) s (execLdKey x s) := by
  unfold execLdKey
  split
  next hk => exact .waits (no_error_of_no_access rfl) ⟨x, rfl⟩ hk
  next k hk => exact .plain rfl (.result List.mem_cons_self _)

theorem execAnswers_storeRegs (x : Reg) (s : State) : ExecAnswers (.storeRegs x) s (execStoreRegs x s) := by
  have hlen : (s.regRange x).length = rangeCount x := s.regRange_length x
  unfold execStoreRegs State.storeAtI
  rw [hlen]
  exact .guarded rfl (.store List.mem_cons_self _ _)

/-- Every instruction answers in one of the three ways. -/
theorem execAnswers (i : Instr) (s : State) : ExecAnswers i s (exec i s) := by
  have hfirst {x : Reg} {l : List Reg} : x ∈ x :: l := List.mem_cons_self
  have hflag {x : Reg} : vf ∈ [x, vf] := List.mem_cons_of_mem _ List.mem_cons_self
  cases i with
  | cls => exact .plain rfl (.setFb List.mem_cons_self _)
  | ret => exact execAnswers_ret s
  | jp nnn => exact .plain rfl (.jump ((zext16_toNat_le nnn).trans (by decide)))
  | call nnn => exact execAnswers_call nnn s
  | seByte x kk => exact .plain rfl (.skip _)
  | sneByte x kk => exact .plain rfl (.skip _)
  | seReg x y => exact .plain rfl (.skip _)
  | ldByte x kk => exact .plain rfl (.result hfirst _)
  | addByte x kk => exact .plain rfl (.result hfirst _)
  | ldReg x y => exact .plain rfl (.result hfirst _)
  | orReg x y => exact .plain rfl (.result hfirst _)
  | andReg x y => exact .plain rfl (.result hfirst _)
  | xorReg x y => exact .plain rfl (.result hfirst _)
  | addReg x y => exact .plain rfl (.twoResults hfirst hflag _ _)
  | subReg x y => exact .plain rfl (.twoResults hfirst hflag _ _)
  | shr x y => exact .plain rfl (.twoResults hflag hfirst _ _)
  | subnReg x y => exact .plain rfl (.twoResults hfirst hflag _ _)
  | shl x y => exact .plain rfl (.twoResults hflag hfirst _ _)
  | sneReg x y => exact .plain rfl (.skip _)
  | ldI nnn => exact .plain rfl (.setI List.mem_cons_self _)
  | jpV0 nnn => exact .plain rfl (.jump (jumpV0_toNat_le nnn _))
  | rnd x kk => exact .plain rfl (.result hfirst _)
  | drw x y n => exact .guarded rfl (.draw List.mem_cons_self hfirst _ _)
  | skp x => exact .plain rfl (.skip _)
  | sknp x => exact .plain rfl (.skip _)
  | ldFromDT x => exact .plain rfl (.result hfirst _)
  | ldKey x => exact execAnswers_ldKey x s
  | ldToDT x => exact .plain rfl (.setDt List.mem_cons_self _)
  | ldToST x => exact .plain rfl (.setSt List.mem_cons_self _)
  | addI x => exact .plain rfl (.setI List.mem_cons_self _)
  | ldFont x => exact .plain rfl (.setI List.mem_cons_self _)
  | ldBcd x => exact .guarded rfl (.store List.mem_cons_self _ _)
  | storeRegs x => exact execAnswers_storeRegs x s
  | loadRegs x => exact .guarded rfl (.loadRange (mem_regsWritten_loadRegs x) _)

end

/-! ### What follows for every instruction -/

/-- Settles O12: a fatal answer is the halted entry state, and the other answers come without an error. -/
theorem fatalErrorIsPrecise : Obligations.FatalErrorIsPrecise := by
  intro i s he
  have h := execAnswers i s
  generalize exec i s = o at h ⊢
  cases h with
  | fatal _ => rfl
  | waits hn _ _ => exact absurd hn he
  | completes u hn _ => exact absurd hn he

/-- Settles O13: without an error the answer is a completion, or the wait of `Fx0A`. -/
theorem noOtherInstructionFails : Obligations.NoOtherInstructionFails := by
  intro i s hnone
  have h := execAnswers i s
  generalize exec i s = o at h ⊢
  cases h with
  | fatal he => exact absurd hnone he
  | waits _ hi hk => exact ⟨_, rfl, ⟨rfl, rfl⟩, .inr ⟨hi, hk, rfl⟩⟩
  | completes u _ heff => exact ⟨_, u.complete_eq, ⟨heff.engine.status_same, heff.engine.err_same⟩, .inl rfl⟩

/-- What an instruction leaves: the halted entry state, the waiting entry state, or its effect with outcome `Done`. -/
theorem exec_next {i : Instr} {s t : State} (h : exec i s = .next t) :
    t = s.halted (fatalError i s) ∧ fatalError i s ≠ .noError ∨ t = s.setReply .awaitKey ∨
      ∃ u, t = u.setReply .done ∧ Effect i s u := by
  have ha := execAnswers i s
  rw [h] at ha
  cases ha with
  | fatal he => exact .inl ⟨rfl, he⟩
  | waits _ _ _ => exact .inr (.inl rfl)
  | completes u _ heff => exact .inr (.inr ⟨u, rfl, heff⟩)

theorem exec_answers_next (i : Instr) (s : State) : ∃ t, exec i s = .next t := by
  have h := execAnswers i s
  generalize exec i s = o at h ⊢
  cases h <;> exact ⟨_, rfl⟩

/-- Settles O14: an error and a wait change no part, and a completion is an effect within the matrix. -/
theorem accessMatrixHolds : Obligations.AccessMatrixHolds := by
  intro i s t h
  obtain ⟨rfl, -⟩ | rfl | ⟨u, rfl, heff⟩ := exec_next h
  · exact s.halted_frames _
  · exact .of_same rfl rfl rfl rfl rfl rfl rfl rfl
  · exact heff.frames.setReply .done

/-- Settles O15: no way to answer touches the host's side. -/
theorem instructionsLeaveHostFields : Obligations.InstructionsLeaveHostFields := by
  intro i s t h
  obtain ⟨rfl, -⟩ | rfl | ⟨u, rfl, heff⟩ := exec_next h
  · exact ⟨rfl, rfl, rfl, rfl⟩
  · exact ⟨rfl, rfl, rfl, rfl⟩
  · exact ⟨heff.host.keys_same, heff.host.rand_same, heff.host.hostOps_same, heff.host.draws_same⟩

/-- Every instruction keeps the invariant of memory and status. -/
theorem exec_keeps_inv {i : Instr} {s t : State} (hs : s.Inv) (h : exec i s = .next t) : t.Inv := by
  obtain ⟨rfl, he⟩ | rfl | ⟨u, rfl, heff⟩ := exec_next h
  · exact ⟨hs.1, iff_of_true rfl he⟩
  · exact hs
  · refine ⟨heff.keeps_wf hs.1, ?_⟩
    rw [State.setReply_status, State.setReply_err, heff.engine.status_same, heff.engine.err_same]
    exact hs.2

/-- A fetched instruction keeps the bounds of `pc` and the stack. -/
theorem exec_keeps_bound {i : Instr} {s t : State} (hpc : s.pc.toNat ≤ 4093) (hs : s.PcBounded)
    (h : exec i s = .next t) : t.PcBounded := by
  obtain ⟨rfl, -⟩ | rfl | ⟨u, rfl, heff⟩ := exec_next h
  · exact hs
  · exact hs
  · exact heff.keeps_bound hpc hs

end Sys2Proof.Machine
end

section
/-! One step (40_step_cycle.md R72 to R80; 60_exceptions.md R177): a `Step` of the engine by its status and its fetch, what
every step can lead to, and the invariants that every step keeps. -/

namespace Sys2Proof.Machine

/-! ### A `Step` -/

section
variable {s u : State}

/-- Every element of the block's state is the same. -/
structure SameBlock (s u : State) : Prop where
  v_same : u.v = s.v
  i_same : u.i = s.i
  pc_same : u.pc = s.pc
  mem_same : u.mem = s.mem
  stack_same : u.stack = s.stack
  sp_same : u.sp = s.sp
  fb_same : u.fb = s.fb
  dt_same : u.dt = s.dt
  st_same : u.st = s.st
  status_same : u.status = s.status
  err_same : u.err = s.err

theorem SameBlock.frames (h : SameBlock s u) {regs : List Reg} {parts : List Part} : Frames s u regs parts :=
  .of_same h.v_same h.i_same h.mem_same h.sp_same h.stack_same h.fb_same h.dt_same h.st_same

theorem SameBlock.readByte_eq (h : SameBlock s u) (a : Nat) : u.readByte a = s.readByte a := by
  simp only [State.readByte, h.mem_same]

theorem SameBlock.fetchWord_eq (h : SameBlock s u) : u.fetchWord = s.fetchWord := by
  simp only [State.fetchWord, h.readByte_eq, h.pc_same]

/-- A step's inputs are no part of the block. -/
theorem StartsStep.sameBlock (h : StartsStep s u) : SameBlock s u := by
  cases h with
  | listed keys rand rest _ hu => subst hu; constructor <;> rfl
  | free _ hu => subst hu; constructor <;> rfl

theorem StartsStep.step_eq (h : StartsStep s u) : step s = u.engineStep := by
  unfold step State.nextOperation
  cases h with
  | listed keys rand rest hops hu => rw [hops, hu]; rfl
  | free hops hu => rw [hops, hu]

theorem State.engineStep_notLoaded (h : s.status = .notLoaded) : s.engineStep = .next (s.setReply .refused) := by
  rw [State.engineStep, h]

theorem State.engineStep_halted (h : s.status = .halted) : s.engineStep = .next (s.setReply (.fatal s.err)) := by
  rw [State.engineStep, h]

theorem State.engineStep_ready (h : s.status = .ready) : s.engineStep = s.guarded s.pc.toNat 2 s.decodeExecute := by
  rw [State.engineStep, h]

/-- A fetch needs two bytes, so it is out of bounds from 4094 on. -/
theorem beyondMemory_two {a : Nat} : beyondMemory a 2 ↔ 4094 ≤ a := by
  have htop : Config.memTop = 4094 := rfl
  unfold beyondMemory
  omega

theorem State.engineStep_outOfBounds (h : s.status = .ready) (hpc : 4094 ≤ s.pc.toNat) :
    s.engineStep = .next (s.halted .addressOutOfBounds) := by
  rw [State.engineStep_ready h, State.guarded_pos (beyondMemory_two.2 hpc)]
  rfl

theorem State.engineStep_fetched (h : s.status = .ready) (hpc : s.pc.toNat < 4094) : s.engineStep = s.decodeExecute := by
  rw [State.engineStep_ready h, State.guarded_neg (mt beyondMemory_two.1 (by omega))]

theorem State.decodeExecute_ok {i : Instr} (h : decodeWord s.fetchWord = .ok i) : s.decodeExecute = exec i s := by
  have hb : decodeBytes s.fetchBytes = .ok (i, []) := by
    rw [State.fetchBytes_eq, decodeBytes_two]
    exact congrArg _ h
  rw [State.decodeExecute, hb]

theorem State.decodeExecute_error {e : DecodeError} (h : decodeWord s.fetchWord = .error e) :
    s.decodeExecute = .next (s.advance.setReply (.unknown s.fetchWord s.pc)) := by
  have hb : decodeBytes s.fetchBytes = .error e := by
    rw [State.fetchBytes_eq, decodeBytes_two]
    exact congrArg _ h
  rw [State.decodeExecute, hb]

/-- A `Step` of a ready engine runs the instruction at `pc`. -/
theorem StartsStep.step_eq_exec {i : Instr} (h : StartsStep s u) (hready : s.status = .ready) (hpc : s.pc.toNat < 4094)
    (hi : decodeWord s.fetchWord = .ok i) : step s = exec i u := by
  have hb := h.sameBlock
  rw [h.step_eq, State.engineStep_fetched (hb.status_same.trans hready) (hb.pc_same.symm ▸ hpc)]
  exact State.decodeExecute_ok (hb.fetchWord_eq.symm ▸ hi)

end

/-- Settles O7: with both bytes there, the fetched word decodes to `i`. -/
theorem stepRunsDecodedInstruction : Obligations.StepRunsDecodedInstruction := by
  intro s u i hu hready hpc hdec
  have hword : decodeWord s.fetchWord = .ok i := by
    rw [decodeBytes_two] at hdec
    change (decodeWord s.fetchWord).map _ = _ at hdec
    cases hw : decodeWord s.fetchWord with
    | ok j => rw [hw] at hdec; cases hdec; rfl
    | error e => rw [hw] at hdec; cases hdec
  exact hu.step_eq_exec hready (by omega) hword

/-- Settles O8: the fetched word is `w`, and its error is the answer of `decodeExecute`. -/
theorem unknownOpcodeOnlyAdvances : Obligations.UnknownOpcodeOnlyAdvances := by
  intro s u w hu hready hpc hw hunknown
  have hb := hu.sameBlock
  have hword : u.fetchWord = w := hb.fetchWord_eq.trans hw.symm
  rw [hu.step_eq, State.engineStep_fetched (hb.status_same.trans hready) (by rw [hb.pc_same]; omega),
    State.decodeExecute_error (hword.symm ▸ hunknown), hword, ← hb.pc_same]
  rfl

/-- Settles O9: the fetch is checked before anything else of a ready engine. -/
theorem fetchOutOfBoundsIsFatal : Obligations.FetchOutOfBoundsIsFatal := by
  intro s u hu hready hpc
  have hb := hu.sameBlock
  rw [hu.step_eq]
  exact State.engineStep_outOfBounds (hb.status_same.trans hready) (hb.pc_same.symm ▸ hpc)

/-- Settles O10: the status check comes first. -/
theorem unreadyEngineExecutesNothing : Obligations.UnreadyEngineExecutesNothing := by
  intro s u hu
  have hb := hu.sameBlock
  rw [hu.step_eq]
  refine ⟨fun h => State.engineStep_notLoaded (hb.status_same.trans h), fun h => ?_⟩
  rw [← hb.err_same]
  exact State.engineStep_halted (hb.status_same.trans h)

/-! ### What a step can lead to -/

/-- What a `Step` leaves, by status, fetch and word. -/
inductive EngineLeaves (s : State) : State → Prop
  | idle (hs : s.status ≠ .ready) (r : Reply) : EngineLeaves s (s.setReply r)
  | outOfBounds : EngineLeaves s (s.halted .addressOutOfBounds)
  | unknown (hpc : s.pc.toNat ≤ 4093) (r : Reply) : EngineLeaves s (s.advance.setReply r)
  | runs (hs : s.status = .ready) (hpc : s.pc.toNat ≤ 4093) (i : Instr) (hi : decodeWord s.fetchWord = .ok i) (t : State)
      (ht : exec i s = .next t) : EngineLeaves s t

/-- Every `Step` of the engine answers a next state of those. -/
theorem State.engineStep_leaves (s : State) : ∃ t, s.engineStep = .next t ∧ EngineLeaves s t := by
  cases hs : s.status with
  | notLoaded => exact ⟨_, State.engineStep_notLoaded hs, .idle (by simp [hs]) _⟩
  | halted => exact ⟨_, State.engineStep_halted hs, .idle (by simp [hs]) _⟩
  | ready =>
    by_cases hpc : 4094 ≤ s.pc.toNat
    · exact ⟨_, State.engineStep_outOfBounds hs hpc, .outOfBounds⟩
    · rw [State.engineStep_fetched hs (by omega)]
      cases hw : decodeWord s.fetchWord with
      | error e => exact ⟨_, State.decodeExecute_error hw, .unknown (by omega) _⟩
      | ok i =>
        obtain ⟨t, ht⟩ := exec_answers_next i s
        exact ⟨t, (State.decodeExecute_ok hw).trans ht, .runs hs (by omega) i hw t ht⟩

/-- What a step leaves: a `Step` of the engine on the state with its inputs in place, or another listed operation. -/
inductive StepLeaves (s : State) : State → Prop
  | engine (u : State) (hu : StartsStep s u) (t : State) (ht : EngineLeaves u t) : StepLeaves s t
  | reset (rest : List HostOp) : StepLeaves s { s with hostOps := rest }.doReset
  | load (rest : List HostOp) (program : List Byte) : StepLeaves s ({ s with hostOps := rest }.doLoad program)
  | tick (rest : List HostOp) (r : Reply) : StepLeaves s ({ s with hostOps := rest }.tick.setReply r)
  | read (rest : List HostOp) (r : Reply) : StepLeaves s ({ s with hostOps := rest }.setReply r)
  | setDelay (rest : List HostOp) (b : Byte) (hops : s.hostOps = .setDelay b :: rest) (r : Reply) :
      StepLeaves s (({ s with hostOps := rest }.setDt b).setReply r)
  | setSound (rest : List HostOp) (b : Byte) (r : Reply) : StepLeaves s (({ s with hostOps := rest }.setSt b).setReply r)

theorem step_of_hostOps {s : State} {op : HostOp} {rest : List HostOp} (h : s.hostOps = op :: rest) :
    step s = State.perform { s with hostOps := rest } op := by
  rw [step, State.nextOperation, h]

/-- Every step answers a next state of those. -/
theorem step_leaves (s : State) : ∃ t, step s = .next t ∧ StepLeaves s t := by
  cases hops : s.hostOps with
  | nil =>
    have hu : StartsStep s s.drawInputs := .free hops rfl
    obtain ⟨t, ht, hleaves⟩ := s.drawInputs.engineStep_leaves
    exact ⟨t, hu.step_eq.trans ht, .engine _ hu t hleaves⟩
  | cons op rest =>
    rw [step_of_hostOps hops]
    cases op with
    | step keys rand =>
      obtain ⟨t, ht, hleaves⟩ := State.engineStep_leaves { s with keys := keys, rand := rand, hostOps := rest }
      exact ⟨t, ht, .engine _ (.listed keys rand rest hops rfl) t hleaves⟩
    | reset => exact ⟨_, rfl, .reset rest⟩
    | load program => exact ⟨_, rfl, .load rest program⟩
    | tick => exact ⟨_, rfl, .tick rest _⟩
    | snapshot => exact ⟨_, rfl, .read rest _⟩
    | getDelay => exact ⟨_, rfl, .read rest _⟩
    | getSound => exact ⟨_, rfl, .read rest _⟩
    | setDelay b => exact ⟨_, rfl, .setDelay rest b hops _⟩
    | setSound b => exact ⟨_, rfl, .setSound rest b _⟩

theorem stepLeaves_of_next {s t : State} (h : step s = .next t) : StepLeaves s t := by
  obtain ⟨t', ht, hleaves⟩ := step_leaves s
  cases ht.symm.trans h
  exact hleaves

/-- Settles O11: each of the three answers of an instruction, and whatever a step leaves, is a next state. -/
theorem everyOperationAnswersNext : Obligations.EveryOperationAnswersNext :=
  ⟨exec_answers_next, fun s => (step_leaves s).imp fun _ h => h.1⟩

/-! ### The invariants -/

/-- Settles O19: memory lists nothing and no error is recorded. -/
theorem resetMeetsInvariant : Obligations.ResetMeetsInvariant := by
  unfold Obligations.ResetMeetsInvariant
  decide

/-- Settles O21: `pc` is 0x200 and every entry 0. -/
theorem resetMeetsPcBound : Obligations.ResetMeetsPcBound := by
  unfold Obligations.ResetMeetsPcBound
  decide

theorem EngineLeaves.inv {s t : State} (h : EngineLeaves s t) (hs : s.Inv) : t.Inv := by
  cases h with
  | idle _ _ => exact hs
  | outOfBounds => exact ⟨hs.1, iff_of_true rfl Err.noConfusion⟩
  | unknown _ _ => exact hs
  | runs _ _ i _ t ht => exact exec_keeps_inv hs ht

theorem EngineLeaves.bound {s t : State} (h : EngineLeaves s t) (hs : s.PcBounded) : t.PcBounded := by
  cases h with
  | idle _ _ => exact hs
  | outOfBounds => exact hs
  | unknown hpc _ => exact ⟨(toNat_add_two_le hpc).trans (by decide), hs.2⟩
  | runs _ hpc i _ t ht => exact exec_keeps_bound hpc hs ht

/-- A load leaves memory canonical, whether the program fits or not. -/
theorem State.doLoad_inv (s : State) (program : List Byte) : (s.doLoad program).Inv := by
  unfold State.doLoad
  split
  · exact ⟨Memory.writeList_wf resetMeetsInvariant.1 _ _, iff_of_false Status.noConfusion (not_not.2 rfl)⟩
  · exact resetMeetsInvariant

theorem State.doLoad_bound (s : State) (program : List Byte) : (s.doLoad program).PcBounded := by
  unfold State.doLoad
  split <;> exact resetMeetsPcBound

/-- What the two invariants speak of is the same. -/
structure SameControl (s u : State) : Prop where
  pc_same : u.pc = s.pc
  mem_same : u.mem = s.mem
  stack_same : u.stack = s.stack
  status_same : u.status = s.status
  err_same : u.err = s.err

theorem SameBlock.control {s u : State} (h : SameBlock s u) : SameControl s u :=
  ⟨h.pc_same, h.mem_same, h.stack_same, h.status_same, h.err_same⟩

theorem SameControl.inv {s u : State} (h : SameControl s u) (hs : s.Inv) : u.Inv := by
  unfold State.Inv
  rwa [h.mem_same, h.status_same, h.err_same]

theorem SameControl.bound {s u : State} (h : SameControl s u) (hs : s.PcBounded) : u.PcBounded := by
  unfold State.PcBounded
  rwa [h.pc_same, h.stack_same]

/-- A property of these elements that a `Step` of the engine keeps, and that a reset and a load bring about, is kept by
every step: the other operations touch none of them. -/
theorem step_keeps {P : State → Prop} (hcontrol : ∀ {s u : State}, SameControl s u → P s → P u)
    (hengine : ∀ {s t : State}, EngineLeaves s t → P s → P t) (hreset : ∀ s : State, P s.doReset)
    (hload : ∀ (s : State) (program : List Byte), P (s.doLoad program)) {s t : State} (hs : P s) (h : step s = .next t) :
    P t := by
  cases stepLeaves_of_next h with
  | engine u hu t ht => exact hengine ht (hcontrol hu.sameBlock.control hs)
  | reset rest => exact hreset _
  | load rest program => exact hload _ program
  | tick _ _ => exact hcontrol (s := s) ⟨rfl, rfl, rfl, rfl, rfl⟩ hs
  | read _ _ => exact hcontrol (s := s) ⟨rfl, rfl, rfl, rfl, rfl⟩ hs
  | setDelay _ _ _ _ => exact hcontrol (s := s) ⟨rfl, rfl, rfl, rfl, rfl⟩ hs
  | setSound _ _ _ => exact hcontrol (s := s) ⟨rfl, rfl, rfl, rfl, rfl⟩ hs

/-- Settles O18: stores keep memory canonical, and `STATUS` and `ERR` are written together. -/
theorem stepKeepsInvariant : Obligations.StepKeepsInvariant := fun _ _ hs h =>
  step_keeps SameControl.inv EngineLeaves.inv (fun _ => resetMeetsInvariant) State.doLoad_inv hs h

/-- Settles O20: only an instruction fetched at 4093 or below moves `pc` or pushes an entry. -/
theorem stepKeepsPcBound : Obligations.StepKeepsPcBound := fun _ _ hs h =>
  step_keeps SameControl.bound EngineLeaves.bound (fun _ => resetMeetsPcBound) State.doLoad_bound hs h

/-! ### A run that has ended, a placed word, and the delay timer -/

theorem SameBlock.ended {s u : State} (h : SameBlock s u) (hs : s.Ended) : u.Ended := by
  unfold State.Ended
  rwa [h.status_same, h.pc_same, h.fetchWord_eq]

theorem SameBlock.setReply {s u : State} (h : SameBlock s u) (r : Reply) : SameBlock s (u.setReply r) :=
  ⟨h.v_same, h.i_same, h.pc_same, h.mem_same, h.stack_same, h.sp_same, h.fb_same, h.dt_same, h.st_same, h.status_same,
    h.err_same⟩

theorem SameBlock.jump_to_same {s u : State} (h : SameBlock s u) {w : Pc} (hw : w = s.pc) :
    SameBlock s (u.advance.setPc w) :=
  ⟨h.v_same, h.i_same, hw, h.mem_same, h.stack_same, h.sp_same, h.fb_same, h.dt_same, h.st_same, h.status_same, h.err_same⟩

/-- A `Step` after the end changes nothing of the block: an engine that is not ready executes nothing, and a ready one jumps
to where it stands. -/
theorem State.Ended.step_sameBlock {s u : State} (hs : s.Ended) (hu : StartsStep s u) :
    ∃ t, step s = .next t ∧ SameBlock s t := by
  have hb := hu.sameBlock
  cases hstatus : s.status with
  | notLoaded => exact ⟨_, (unreadyEngineExecutesNothing s u hu).1 hstatus, hb.setReply _⟩
  | halted => exact ⟨_, (unreadyEngineExecutesNothing s u hu).2 hstatus, hb.setReply _⟩
  | ready =>
    obtain hhalted | ⟨hpc, nnn, hjump, htarget⟩ := hs
    · simp [hstatus] at hhalted
    · have hfetch : s.pc.toNat < 4094 := not_le.1 (mt beyondMemory_two.2 hpc)
      exact ⟨_, hu.step_eq_exec hstatus hfetch hjump, (hb.jump_to_same htarget).setReply .done⟩

/-- Settles O16: a step after the end leaves the block as it was. -/
theorem endedRunStaysEnded : Obligations.EndedRunStaysEnded := by
  intro s u hs hu
  obtain ⟨t, hnext, hb⟩ := hs.step_sameBlock hu
  exact ⟨t, hnext, hb.pc_same, hb.frames, ⟨hb.status_same, hb.err_same⟩, hb.ended hs⟩

theorem State.fetchPlace_lt (s : State) : s.fetchPlace.toNat < 4094 := by
  unfold State.fetchPlace
  split
  · decide
  · next h => exact not_le.1 (mt beyondMemory_two.2 h)

/-- The two bytes placed are the ones fetched. -/
theorem State.placeWord_fetchWord {s : State} (hm : Memory.wf s.mem = true) (ir : Word) :
    (s.placeWord ir).fetchWord = ir := by
  have hplace := s.fetchPlace_lt
  have hmem {k : Nat} (hk : k < (wordBytes ir).length) :
      (s.placeWord ir).readByte (s.fetchPlace.toNat + k) = (wordBytes ir)[k] :=
    Memory.read_writeList_inside hm hk (by change _ + 2 ≤ 4095; omega)
  have hhi := hmem (k := 0) Nat.zero_lt_two
  have hlo := hmem (k := 1) Nat.one_lt_two
  change wordOfBytes ((s.placeWord ir).readByte s.fetchPlace.toNat)
    ((s.placeWord ir).readByte (s.fetchPlace.toNat + 1)) = ir
  rw [Nat.add_zero] at hhi
  rw [hhi, hlo]
  exact wordOfBytes_wordBytes ir

theorem decodeWord_of_decodeTableWord {nbits w : Nat} {i : Instr} (h : decodeTableWord nbits w = some i) :
    decodeWord (BitVec.ofNat 16 (w % 2 ^ nbits)) = .ok i := by
  have hbytes := decodeBytes_wordBytes (BitVec.ofNat 16 (w % 2 ^ nbits)) []
  rw [List.append_nil] at hbytes
  rw [decodeTableWord, hbytes] at h
  cases hw : decodeWord (BitVec.ofNat 16 (w % 2 ^ nbits)) with
  | ok j => rw [hw] at h; cases h; rfl
  | error e => rw [hw] at h; cases h

/-- Settles O17: the placed state lists a `Step` with its own inputs, is ready, and fetches the word. -/
theorem placedWordRunsNext : Obligations.PlacedWordRunsNext := by
  intro s nbits w i hm hdec
  have hi : decodeWord (s.withFetchWord nbits w).fetchWord = .ok i := by
    rw [State.withFetchWord, State.placeWord_fetchWord hm]
    exact decodeWord_of_decodeTableWord hdec
  have hu : StartsStep (s.withFetchWord nbits w) { s.withFetchWord nbits w with hostOps := s.hostOps } :=
    .listed s.keys s.rand s.hostOps rfl rfl
  exact ⟨_, hu.step_eq_exec rfl s.fetchPlace_lt hi, rfl, rfl, rfl, rfl, rfl, rfl, rfl, rfl, rfl, rfl⟩

theorem eq_ldToDT_of_delayTimer_mem {i : Instr} (h : .delayTimer ∈ partsWritten i) : ∃ x, i = .ldToDT x := by
  cases i <;> simp [partsWritten] at h ⊢

/-- A `Step` changes the delay timer only in a `Fx15`. -/
theorem EngineLeaves.dt_cases {s t : State} (h : EngineLeaves s t) :
    t.dt = s.dt ∨ s.status = .ready ∧ ∃ x, decodeWord s.fetchWord = .ok (.ldToDT x) := by
  cases h with
  | idle _ _ => exact .inl rfl
  | outOfBounds => exact .inl rfl
  | unknown _ _ => exact .inl rfl
  | runs hs _ i hi t ht =>
    by_cases hdt : .delayTimer ∈ partsWritten i
    · obtain ⟨x, rfl⟩ := eq_ldToDT_of_delayTimer_mem hdt
      exact .inr ⟨hs, x, hi⟩
    · exact .inl ((accessMatrixHolds i s t ht).parts_same .delayTimer hdt)

theorem countDown_toNat (b : Byte) : (countDown b).toNat = b.toNat - 1 := by
  unfold countDown
  split
  · next h => simp [h]
  · next h => bv_omega

theorem State.doLoad_dt (s : State) (program : List Byte) : (s.doLoad program).dt = 0 := by
  unfold State.doLoad
  split <;> rfl

/-- Settles O57: a reset and a load leave 0, a tick goes down, and a `Step` changes the timer only in a `Fx15`. -/
theorem delayTimerRisesOnlyWhenWritten : Obligations.DelayTimerRisesOnlyWhenWritten := by
  intro s t h hrise
  cases stepLeaves_of_next h with
  | engine u hu t ht =>
    have hb := hu.sameBlock
    obtain hsame | ⟨hready, x, hx⟩ := ht.dt_cases
    · rw [hsame, hb.dt_same] at hrise
      exact absurd hrise (lt_irrefl _)
    · exact .inr ⟨u, x, hu, hb.status_same.symm.trans hready, hb.fetchWord_eq ▸ hx⟩
  | reset rest => exact absurd hrise (Nat.not_lt_zero _)
  | load rest program =>
    rw [State.doLoad_dt] at hrise
    exact absurd hrise (Nat.not_lt_zero _)
  | tick rest r =>
    rw [State.setReply_dt, State.tick_dt, countDown_toNat] at hrise
    exact absurd hrise (Nat.sub_le _ 1).not_gt
  | read rest r => exact absurd hrise (lt_irrefl _)
  | setDelay rest b hops r => exact .inl ⟨b, rest, hops⟩
  | setSound rest b r => exact absurd hrise (lt_irrefl _)

end Sys2Proof.Machine
end

section
/-! The host's operations other than `Step` (60_exceptions.md R172, R177; 70_reset_and_hazards.md R190, R192). -/

namespace Sys2Proof.Machine

/-! ### Reset and load -/

/-- Settles O22: the registers, the stack and the screen repeat 0, and an unlisted byte is the font's or 0. -/
theorem resetValues : Obligations.ResetValues := by
  have hread (a : Nat) : State.reset.readByte a = Config.font.getD a 0 := rfl
  refine ⟨fun r => ?v, rfl, rfl, fun a _ => hread a, fun a ha => ?zeros, fun k => ?stack, rfl, fun r c => ?pixel, rfl, rfl,
    rfl, rfl⟩
  case v => simp [State.getV, State.reset]
  case zeros => rw [hread, List.getD_eq_default _ _ (le_trans (by decide) ha)]
  case stack => simp [State.reset]
  case pixel => exact State.pixel_of_fb_blank rfl r c

theorem State.doLoad_of_fits (s : State) {program : List Byte} (h : program.length ≤ 3583) :
    s.doLoad program =
      { s.doReset.storeBytes Config.progBase program with status := .ready, reply := .loadOk } :=
  if_pos (decide_eq_true h)

theorem State.doLoad_of_not_fits (s : State) {program : List Byte} (h : 3583 < program.length) :
    s.doLoad program = s.doReset.setReply .loadFailed :=
  if_neg fun hfits => absurd (of_decide_eq_true hfits) h.not_ge

/-- Settles O58: the bytes are stored over the reset contents, which are canonical, inside memory. -/
theorem loadPlacesProgram : Obligations.LoadPlacesProgram := by
  intro s program rest hops hfits
  have hstep := (step_of_hostOps hops).trans (congrArg Host.Outcome.next (State.doLoad_of_fits _ hfits))
  refine ⟨_, hstep, fun k hk => ?inside, fun a ha => ?outside, rfl, rfl, rfl, ?frames, rfl, rfl⟩
  case inside => exact Memory.read_writeList_inside rfl hk (by change 0x200 + _ ≤ 4095; omega)
  case outside => exact Memory.read_writeList_outside _ ha
  case frames =>
    have hreset : Frames State.reset ({ s with hostOps := rest } : State).doReset [] [.memory] :=
      .of_same rfl rfl rfl rfl rfl rfl rfl rfl
    exact (hreset.storeBytes List.mem_cons_self Config.progBase program).trans (.of_same rfl rfl rfl rfl rfl rfl rfl rfl)

/-- Settles O59: a program that does not fit leaves what `Reset` leaves. -/
theorem failedLoadAndResetLeaveReset : Obligations.FailedLoadAndResetLeaveReset := by
  intro s rest
  refine ⟨fun program hops hlong => ?load, fun hops => step_of_hostOps hops⟩
  rw [step_of_hostOps hops]
  exact congrArg Host.Outcome.next (State.doLoad_of_not_fits _ hlong)

/-! ### Timers and accessors -/

/-- Settles O60: each operation is its row of R177's table. -/
theorem hostAccessors : Obligations.HostAccessors := fun _ _ _ =>
  ⟨step_of_hostOps, step_of_hostOps, step_of_hostOps, step_of_hostOps, step_of_hostOps⟩

/-- Settles O55: both timers count down, each on its own, and no status is looked at. -/
theorem tickCountsDown : Obligations.TickCountsDown := by
  intro s rest hops
  have hrest : Frames s { s with hostOps := rest } [] [.delayTimer, .soundTimer] :=
    .of_same rfl rfl rfl rfl rfl rfl rfl rfl
  have htick := ((hrest.setDt List.mem_cons_self (countDown s.dt)).setSt (by simp) (countDown s.st)).setReply .nothing
  exact ⟨_, step_of_hostOps hops, countDown_toNat s.dt, countDown_toNat s.st, rfl, htick, ⟨rfl, rfl⟩, rfl⟩

theorem core_run_succ {s t : State} (h : step s = .next t) (k : Nat) : core.run (k + 1) s = core.run k t := by
  have hcore : core.step s = .next t := h
  simp only [Host.Core.run, hcore]

/-- Settles O56, by induction on the number of ticks: each takes both timers down by 1 or leaves them at 0. -/
theorem ticksReachZero : Obligations.TicksReachZero := by
  intro k
  induction k with
  | zero => exact fun s rest hops => ⟨s, rfl, rfl, rfl, rfl, hops⟩
  | succ k ih =>
    intro s rest hops
    have htick : s.hostOps = .tick :: (List.replicate k .tick ++ rest) := hops
    obtain ⟨t, hstep, hdt, hst, hpc, -, -, hops'⟩ := tickCountsDown s _ htick
    obtain ⟨u, hrun, hdt', hst', hpc', hops''⟩ := ih t rest hops'
    exact ⟨u, (core_run_succ hstep k).trans hrun, by omega, by omega, hpc'.trans hpc, hops''⟩

end Sys2Proof.Machine
end

section
/-! Control transfer (41_flow.md R90 to R94): jumps, and call and return with the stack as an array and a count. -/

namespace Sys2Proof.Machine

/-- A jump goes to its target and changes nothing else; where no two bytes exist there, the next fetch fails. -/
theorem State.jump_spec (s : State) (w : Pc) :
    ∃ t, (s.advance.setPc w).complete = .next t ∧ t.pc.toNat = w.toNat ∧ t.reply = .done ∧ Frames s t [] [] ∧
      SameEngine s t ∧
      (s.status = .ready → 4094 ≤ w.toNat → ∀ u, StartsStep t u → step t = .next (u.halted .addressOutOfBounds)) :=
  ⟨_, State.complete_eq _, rfl, rfl, ((s.advance_frames [] []).setPc w).setReply .done, ⟨rfl, rfl⟩,
    fun hready hw u hu => fetchOutOfBoundsIsFatal _ u hu hready hw⟩

theorem exec_jp (nnn : Addr12) (s : State) : exec (.jp nnn) s = (s.advance.setPc (zext16 nnn)).complete := rfl

theorem exec_jpV0 (nnn : Addr12) (s : State) :
    exec (.jpV0 nnn) s = (s.advance.setPc (zext16 nnn + zext16 (s.getV 0))).complete := rfl

/-- Settles O23: `nnn` widened to the 16 bits of `pc` keeps its value. -/
theorem jumpGoesToTarget : Obligations.JumpGoesToTarget := by
  intro nnn s
  have hwiden : (zext16 nnn).toNat = nnn.toNat := BitVec.toNat_setWidth_of_le (by decide)
  rw [exec_jp, ← hwiden]
  exact ⟨Laws.Encodes.and_formNNN 0x1 nnn, s.jump_spec _⟩

/-- Settles O26: the sum of 12 bits and 8 bits fits the 16 bits of `pc`. -/
theorem jumpV0AddsRegister : Obligations.JumpV0AddsRegister := by
  intro nnn s
  rw [exec_jpV0, ← jumpV0_toNat]
  exact ⟨Laws.Encodes.and_formNNN 0xB nnn, s.jump_spec _⟩

/-! ### Call and return -/

theorem exec_call_of_push {nnn : Addr12} {s t : State} (h : s.advance.push (s.pc + 2) = some t) :
    exec (.call nnn) s = .next ((t.setPc (zext16 nnn)).setReply .done) := by
  change execCall nnn s = _
  rw [execCall, State.advance_pc, h]
  rfl

theorem exec_ret_of_pop {s t : State} {w : Pc} (h : s.advance.pop = some (w, t)) :
    exec .ret s = .next ((t.setPc w).setReply .done) := by
  change execRet s = _
  rw [execRet, h]
  rfl

/-- With room on the stack a call completes: the entry at `SP` becomes the address after it, and `SP` goes up. -/
theorem exec_call_spec (nnn : Addr12) {s : State} (h : s.sp.val < 16) :
    ∃ t, exec (.call nnn) s = .next t ∧ t.pc.toNat = nnn.toNat ∧ t.sp.val = s.sp.val + 1 ∧
      t.stack = s.stack.setIfInBounds s.sp.val (s.pc + 2) ∧ Frames s t [] [.callStack] ∧ SameEngine s t := by
  cases hpush : s.advance.push (s.pc + 2) with
  | none =>
    have hfull : s.sp.val = 16 := (s.advance.push_none _).1 hpush
    omega
  | some t =>
    obtain ⟨-, hsp, hstack, -⟩ := State.push_some hpush
    have heff : Effect (.call nnn) s (t.setPc (zext16 nnn)) := .call hpush
    exact ⟨_, exec_call_of_push hpush, BitVec.toNat_setWidth_of_le (by decide), hsp, hstack,
      heff.frames.setReply .done, ⟨heff.engine.status_same, heff.engine.err_same⟩⟩

/-- With an entry in use a return completes: `pc` becomes the most recent entry and `SP` goes down. -/
theorem exec_ret_spec {s : State} {k : Nat} (h : s.sp.val = k + 1) :
    ∃ t, exec .ret s = .next t ∧ t.pc = s.stack.getD k 0 ∧ t.sp.val = k ∧ t.stack = s.stack ∧
      Frames s t [] [.callStack] ∧ SameEngine s t := by
  cases hpop : s.advance.pop with
  | none =>
    have hempty : s.sp.val = 0 := s.advance.pop_none.1 hpop
    omega
  | some wt =>
    obtain ⟨w, t⟩ := wt
    obtain ⟨-, hsp, hw, ht⟩ := State.pop_some hpop
    have hk : s.advance.sp.val - 1 = k := by change s.sp.val - 1 = k; omega
    rw [hk] at hsp hw
    have heff : Effect .ret s (t.setPc w) := .ret hpop
    exact ⟨_, exec_ret_of_pop hpop, hw, hsp, by rw [ht]; rfl, heff.frames.setReply .done,
      ⟨heff.engine.status_same, heff.engine.err_same⟩⟩

/-- Settles O24: with room the call pushes, and with sixteen entries its error condition holds. -/
theorem callPushesReturnAddress : Obligations.CallPushesReturnAddress := by
  intro nnn s
  refine ⟨fun hroom => ?room, fun hfull => ?full⟩
  case room =>
    obtain ⟨t, hnext, hpc, hsp, hstack, hrest⟩ := exec_call_spec nnn hroom
    refine ⟨t, hnext, hpc, hsp, fun k => ?_, hrest⟩
    simp only [hstack, Fin.getElem_fin, Vector.getElem_setIfInBounds, eq_comm (a := s.sp.val)]
  case full =>
    have he : fatalError (.call nnn) s = .stackOverflow := if_pos hfull
    exact he ▸ fatalErrorIsPrecise (.call nnn) s (by simp [he])

/-- Settles O25: with an entry the return pops it, and with none its error condition holds. -/
theorem returnPopsReturnAddress : Obligations.ReturnPopsReturnAddress := by
  intro s
  refine ⟨fun k hsp => ?entry, fun hempty => ?empty⟩
  case entry =>
    obtain ⟨t, hnext, hpc, hrest⟩ := exec_ret_spec hsp
    refine ⟨t, hnext, hpc.trans ?_, hrest⟩
    simp [Vector.getD]
  case empty =>
    have he : fatalError .ret s = .stackUnderflow := if_pos hempty
    exact he ▸ fatalErrorIsPrecise .ret s (by simp [he])

/-- Settles O29: the return looks only at `SP` and at the entry the call pushed. -/
theorem callThenReturnRestores : Obligations.CallThenReturnRestores := by
  intro nnn s hroom
  obtain ⟨t, hcall, -, hsp, hstack, -⟩ := exec_call_spec nnn hroom
  refine ⟨t, hcall, ?entry, hsp, fun u husp huentry => ?ret⟩
  case entry => simp [hstack, Vector.getD, hroom]
  case ret =>
    obtain ⟨w, hret, hpc, hwsp, -⟩ := exec_ret_spec (s := u) (husp ▸ hsp)
    exact ⟨w, hret, hpc.trans huentry, Fin.ext hwsp⟩

end Sys2Proof.Machine
end

section
/-! Subtraction with its flag, shifts, random, the index register and keys (42_alu.md R111, R117 to R121;
43_index_memory.md R132, R133; 45_keys_timers.md R150 to R153). -/

namespace Sys2Proof.Machine

/-! ### Subtraction -/

theorem exec_subReg (x y : Reg) (s : State) :
    exec (.subReg x y) s = s.resultThenFlag x (s.getV x - s.getV y) (greaterFlag (s.getV x) (s.getV y)) := rfl

theorem exec_subnReg (x y : Reg) (s : State) :
    exec (.subnReg x y) s = s.resultThenFlag x (s.getV y - s.getV x) (greaterFlag (s.getV y) (s.getV x)) := rfl

theorem byte_sub_toNat (p q : Byte) : (p - q).toNat = (256 + p.toNat - q.toNat) % 256 := by
  have hq := q.isLt
  rw [BitVec.toNat_sub]
  congr 1
  omega

/-- A difference and its strict comparison, whichever operand is the minuend. -/
theorem State.subtract_spec (s : State) (x : Reg) (p q : Byte) :
    ∃ t, s.resultThenFlag x (p - q) (greaterFlag p q) = .next t ∧
      (x ≠ vf → (t.getV x).toNat = (256 + p.toNat - q.toNat) % 256) ∧
      t.getV vf = (if p.toNat > q.toNat then 1 else 0) ∧ t.pc = s.pc + 2 ∧ Frames s t [x, vf] [] ∧ SameEngine s t := by
  obtain ⟨t, hnext, hdiff, hflag, hrest⟩ := s.resultThenFlag_spec x (p - q) (greaterFlag p q)
  refine ⟨t, hnext, fun hx => ?diff, ?flag, hrest⟩
  case diff => rw [hdiff hx, byte_sub_toNat]
  case flag => rw [hflag, greaterFlag, flagByte_decide]

/-- Settles O35: the two instructions swap minuend and subtrahend. -/
theorem subtractWithFlag : Obligations.SubtractWithFlag := by
  intro x y s
  rw [exec_subReg, exec_subnReg]
  exact ⟨s.subtract_spec x (s.getV x) (s.getV y), s.subtract_spec x (s.getV y) (s.getV x)⟩

/-! ### Shifts -/

/-- The flag and then the shift: where `x` is `F` the shift acts on the flag (R111). -/
theorem State.flagThenShift_spec (s : State) (x : Reg) (flag : Byte) (shift : Byte → Byte) :
    ∃ t, s.flagThenShift x flag shift = .next t ∧ (x ≠ vf → t.getV x = shift (s.getV x) ∧ t.getV vf = flag) ∧
      (x = vf → t.getV vf = shift flag) ∧ t.pc = s.pc + 2 ∧ Frames s t [x, vf] [] ∧ SameEngine s t := by
  refine ⟨_, s.flagThenShift_eq x flag shift, fun hx => ⟨?shifted, ?flag⟩, fun hx => ?both, rfl, ?frame, ⟨rfl, rfl⟩⟩
  case shifted =>
    rw [State.setReply_getV, State.setV_getV_same, State.setV_getV_other _ _ hx, State.advance_getV]
  case flag => rw [State.setReply_getV, State.setV_getV_other _ _ hx.symm, State.setV_getV_same]
  case both =>
    subst hx
    rw [State.setReply_getV, State.setV_getV_same, State.setV_getV_same]
  case frame => exact (((s.advance_frames [x, vf] []).setV (by simp) flag).setV (by simp) _).setReply .done

theorem exec_shr (x y : Reg) (s : State) :
    exec (.shr x y) s = s.flagThenShift x (shrFlag (s.getV x)) (fun b => b >>> 1) := rfl

theorem exec_shl (x y : Reg) (s : State) :
    exec (.shl x y) s = s.flagThenShift x (shlFlag false (s.getV x)) (fun b => b <<< 1) := rfl

theorem shrFlag_toNat (b : Byte) : (shrFlag b).toNat = b.toNat % 2 := by
  rw [shrFlag, BitVec.toNat_and]
  exact Nat.and_one_is_mod _

theorem shrFlag_shift (b : Byte) : shrFlag b >>> 1 = 0 := by
  apply BitVec.eq_of_toNat_eq
  rw [BitVec.toNat_ushiftRight, shrFlag_toNat, Nat.shiftRight_eq_div_pow]
  simp

/-- Bit 7 of a byte, as a comparison. -/
theorem shlFlag_false (b : Byte) : shlFlag false b = if 128 ≤ b.toNat then 1 else 0 := by
  have hbit : b.getLsbD 7 = decide (128 ≤ b.toNat) := BitVec.msb_eq_decide b
  simp only [shlFlag, hbit, decide_eq_true_eq, Bool.false_eq_true, if_false]

/-- Settles O36: halving is the shift, and the shift of a flag of 0 or 1 is 0. -/
theorem shiftRight : Obligations.ShiftRight := by
  intro x y s
  obtain ⟨t, hnext, hother, hself, hpc, hrest⟩ := s.flagThenShift_spec x (shrFlag (s.getV x)) (fun b => b >>> 1)
  refine ⟨t, (exec_shr x y s).trans hnext, fun hx => ⟨?half, ?flag⟩, fun hx => ?self, hpc, hrest.1, hrest.2, fun _ => rfl⟩
  case half => rw [(hother hx).1, BitVec.toNat_ushiftRight, Nat.shiftRight_eq_div_pow, pow_one]
  case flag => rw [(hother hx).2, shrFlag_toNat]
  case self => rw [hself hx, shrFlag_shift]

/-- Settles O37: doubling is the shift, and the shift of a flag of 1 or 0 is 2 or 0. -/
theorem shiftLeft : Obligations.ShiftLeft := by
  intro x y s
  obtain ⟨t, hnext, hother, hself, hpc, hrest⟩ := s.flagThenShift_spec x (shlFlag false (s.getV x)) (fun b => b <<< 1)
  refine ⟨t, (exec_shl x y s).trans hnext, fun hx => ⟨?double, ?flag⟩, fun hx => ?self, hpc, hrest.1, hrest.2, fun _ => rfl⟩
  case double => rw [(hother hx).1, BitVec.toNat_shiftLeft, Nat.shiftLeft_eq, pow_one]
  case flag => rw [(hother hx).2, shlFlag_false]
  case self =>
    rw [hself hx, shlFlag_false]
    split <;> rfl

/-! ### Random -/

theorem exec_rnd (x : Reg) (kk : Byte) (s : State) : exec (.rnd x kk) s = s.result x (s.rand &&& kk) := rfl

/-- Settles O38: the result is given bit by bit, for whatever `RAND` is. -/
theorem randomIsMasked : Obligations.RandomIsMasked := by
  intro x kk s
  rw [exec_rnd]
  exact s.result_bits x fun _ => BitVec.getLsbD_and

/-! ### The index register -/

theorem exec_addI (x : Reg) (s : State) : exec (.addI x) s = (s.advance.setI (s.i + zext16 (s.getV x))).complete := rfl

theorem exec_ldFont (x : Reg) (s : State) : exec (.ldFont x) s = (s.advance.setI (fontAddress (s.getV x))).complete := rfl

/-- The mask of D14 and D15 keeps the low digit. -/
theorem byte_and_digit_toNat (b : Byte) : (b &&& 0x0F).toNat = b.toNat % 16 := by
  rw [BitVec.toNat_and]
  exact Nat.and_two_pow_sub_one_eq_mod b.toNat 4

/-- Settles O40: a byte widened to the 16 bits of `I` keeps its value, and their addition wraps at 65536. -/
theorem addToIndex : Obligations.AddToIndex := by
  intro x s
  rw [exec_addI]
  refine s.setI_complete_toNat ?_
  rw [BitVec.toNat_add, BitVec.toNat_setWidth_of_le (by decide)]

/-- Settles O41: five times a digit fits the 16 bits of `I`. -/
theorem fontDigitAddress : Obligations.FontDigitAddress := by
  intro x s
  rw [exec_ldFont]
  refine s.setI_complete_toNat ?_
  have hdigit : (s.getV x &&& Config.fontIndexMask).toNat = (s.getV x).toNat % 16 := byte_and_digit_toNat _
  rw [fontAddress, BitVec.toNat_ofNat, hdigit, Nat.zero_add]
  exact Nat.mod_eq_of_lt (by omega)

/-! ### Keys -/

theorem exec_skp (x : Reg) (s : State) : exec (.skp x) s = s.skipWhen (s.keyPressed (keyIndex (s.getV x))) := rfl

theorem exec_sknp (x : Reg) (s : State) : exec (.sknp x) s = s.skipWhen (!s.keyPressed (keyIndex (s.getV x))) := rfl

theorem keyIndex_eq_mod (b : Byte) : keyIndex b = b.toNat % 16 := byte_and_digit_toNat b

/-- A skip where a condition fails. -/
theorem State.skipWhen_not (s : State) (c : Bool) :
    ∃ t, s.skipWhen (!c) = .next t ∧ t.pc = (if c then s.pc + 2 else s.pc + 4) ∧ Frames s t [] [] ∧ SameEngine s t := by
  have hskip := s.skipWhen_pc_frame (!c)
  cases c <;> exact hskip

/-- Settles O51: both skips are `skipWhen`, on the key pressed and not pressed. -/
theorem skipOnKey : Obligations.SkipOnKey := by
  intro x s
  rw [exec_skp, exec_sknp, ← keyIndex_eq_mod]
  exact ⟨s.skipWhen_pc_frame _, s.skipWhen_not _⟩

theorem exec_ldKey_of_some {s : State} {k : Nat} (h : s.anyKey = some k) (x : Reg) :
    exec (.ldKey x) s = s.result x (BitVec.ofNat 8 k) := by
  change execLdKey x s = _
  rw [execLdKey, h]

theorem exec_ldKey_of_none {s : State} (h : s.anyKey = none) (x : Reg) :
    exec (.ldKey x) s = .next (s.setReply .awaitKey) := by
  change execLdKey x s = _
  rw [execLdKey, h]

/-- The least pressed key is the one found. -/
theorem State.anyKey_eq_some {s : State} {k : Nat} (hk : k < 16) (hp : s.keyPressed k = true)
    (hn : ∀ j, j < k → s.keyPressed j = false) : s.anyKey = some k := by
  refine List.find?_range_eq_some.2 ⟨hp, by simpa using hk, fun j hj => ?_⟩
  simp [hn j hj]

/-- Settles O52: a search from key 0 finds the least pressed key, and none where no key is pressed. -/
theorem keyWaitTakesLowestKey : Obligations.KeyWaitTakesLowestKey := by
  intro x s
  refine ⟨fun k hk hp hn => ?key, fun hnone => ?wait⟩
  case key =>
    rw [exec_ldKey_of_some (State.anyKey_eq_some hk hp hn)]
    exact s.result_toNat x (Nat.mod_eq_of_lt (by omega))
  case wait => exact exec_ldKey_of_none (State.anyKey_none.2 fun k _ => by simp [State.keyPressed, hnone]) x

end Sys2Proof.Machine
end

section
/-! Stores and loads (43_index_memory.md R131 to R136): a store and a load at `I` within bounds, said once, and the bounds
error; then what is read back. -/

namespace Sys2Proof.Machine

/-- An access to `n + 1` bytes is out of bounds where its last byte is. -/
theorem beyondMemory_succ {a n : Nat} : beyondMemory a (n + 1) ↔ 4094 < a + n := by
  have htop : Config.memTop = 4094 := rfl
  unfold beyondMemory
  omega

/-- A store within bounds puts its bytes from `I` on and changes nothing else. -/
theorem State.storeAtI_spec {s : State} (hm : Memory.wf s.mem = true) {bs : List Byte} {n : Nat} (hlen : bs.length = n + 1)
    (hb : s.base + n ≤ 4094) :
    ∃ t, s.storeAtI bs = .next t ∧ (∀ k (hk : k < bs.length), t.readByte (s.base + k) = bs[k]) ∧
      (∀ a, a < s.base ∨ s.base + n + 1 ≤ a → t.readByte a = s.readByte a) ∧ t.pc = s.pc + 2 ∧
      Frames s t [] [.memory] ∧ SameEngine s t := by
  have hin : ¬ beyondMemory s.base bs.length := by rw [hlen, beyondMemory_succ]; omega
  refine ⟨_, State.guarded_neg hin _, fun k hk => ?inside, fun a ha => ?outside, rfl, ?frame, ⟨rfl, rfl⟩⟩
  case inside => exact Memory.read_writeList_inside hm hk (by change _ ≤ 4095; omega)
  case outside => exact Memory.read_writeList_outside _ (by omega)
  case frame => exact ((s.advance_frames [] [.memory]).storeBytes List.mem_cons_self s.base bs).setReply .done

theorem exec_ldBcd (x : Reg) (s : State) : exec (.ldBcd x) s = s.storeAtI (bcdDigits (s.getV x)) := rfl

theorem exec_storeRegs (x : Reg) (s : State) : exec (.storeRegs x) s = s.storeAtI (s.regRange x) := rfl

theorem fatalError_of_access {i : Instr} {s : State} {n : Nat}
    (hf : fatalError i s = if beyondMemory s.base (n + 1) then .addressOutOfBounds else .noError) (hb : 4094 < s.base + n) :
    exec i s = .next (s.halted .addressOutOfBounds) := by
  have he : fatalError i s = .addressOutOfBounds := hf.trans (if_pos (beyondMemory_succ.2 hb))
  exact he ▸ fatalErrorIsPrecise i s (by simp [he])

/-! ### Decimal digits -/

theorem toNat_ofNat_of_lt {n : Nat} (h : n < 256) : (BitVec.ofNat 8 n).toNat = n := Nat.mod_eq_of_lt h

/-- Settles O42: the three bytes stored are the digits. -/
theorem storeDecimalDigits : Obligations.StoreDecimalDigits := by
  intro x s hm
  refine ⟨fun hb => ?inBounds, fun hb => fatalError_of_access (n := 2) rfl hb⟩
  obtain ⟨t, hnext, hinside, hrest⟩ := State.storeAtI_spec hm (bcdDigits_length (s.getV x)) hb
  have hb := (s.getV x).isLt
  refine ⟨t, (exec_ldBcd x s).trans hnext, ?_, ?_, ?_, hrest⟩
  · exact (congrArg _ (hinside 0 (by simp))).trans (toNat_ofNat_of_lt (by omega))
  · exact (congrArg _ (hinside 1 (by simp))).trans (toNat_ofNat_of_lt (by omega))
  · exact (congrArg _ (hinside 2 (by simp))).trans (toNat_ofNat_of_lt (by omega))

/-! ### Registers -/

/-- Within bounds `Fx55` stores `V[k]` at `I + k`. -/
theorem exec_storeRegs_spec {x : Reg} {s : State} (hm : Memory.wf s.mem = true) (hb : s.base + x.val ≤ 4094) :
    ∃ t, exec (.storeRegs x) s = .next t ∧ (∀ k : Reg, k ≤ x → t.readByte (s.base + k.val) = s.getV k) ∧
      (∀ a, a < s.base ∨ s.base + x.val + 1 ≤ a → t.readByte a = s.readByte a) ∧ t.pc = s.pc + 2 ∧
      Frames s t [] [.memory] ∧ SameEngine s t := by
  obtain ⟨t, hnext, hinside, hrest⟩ := State.storeAtI_spec hm (s.regRange_length x) hb
  refine ⟨t, (exec_storeRegs x s).trans hnext, fun k hk => ?_, hrest⟩
  have hlen : k.val < (s.regRange x).length := by
    rw [s.regRange_length]
    exact Nat.lt_succ_of_le hk
  rw [hinside k.val hlen, s.regRange_getElem hlen k.isLt]

/-- Settles O43: the store within bounds, and its error condition beyond them. -/
theorem storeRegisters : Obligations.StoreRegisters := fun _ _ hm =>
  ⟨exec_storeRegs_spec hm, fun hb => fatalError_of_access rfl hb⟩

/-- Within bounds `Fx65` loads the byte at `I + k` into `V[k]`. -/
theorem exec_loadRegs_spec {x : Reg} {s : State} (hb : s.base + x.val ≤ 4094) :
    ∃ t, exec (.loadRegs x) s = .next t ∧
      (∀ k : Reg, t.getV k = if k ≤ x then s.readByte (s.base + k.val) else s.getV k) ∧
      t.pc = s.pc + 2 ∧ Frames s t ((List.finRange 16).filter (fun r => r ≤ x)) [] ∧ SameEngine s t := by
  have hin : ¬ beyondMemory s.base (rangeCount x) := by rw [rangeCount, beyondMemory_succ]; omega
  have heff : Effect (.loadRegs x) s (s.advance.setRange x fun k => s.readByte (s.base + k)) :=
    .loadRange (mem_regsWritten_loadRegs x) _
  refine ⟨_, State.guarded_neg hin _, fun k => ?_, rfl, heff.frames.setReply .done,
    ⟨heff.engine.status_same, heff.engine.err_same⟩⟩
  rw [State.setReply_getV, State.setRange_getV, State.advance_getV]

/-- Settles O44: the load within bounds, and its error condition beyond them. -/
theorem loadRegisters : Obligations.LoadRegisters := fun _ _ =>
  ⟨exec_loadRegs_spec, fun hb => fatalError_of_access rfl hb⟩

/-! ### What is stored is read back -/

/-- A load reads, from the memory and the `I` of a state, the bytes found there. -/
theorem exec_loadRegs_of_mem {x : Reg} {s t u : State} (hmem : u.mem = t.mem) (hi : u.i = s.i)
    (hb : s.base + x.val ≤ 4094) :
    ∃ w, exec (.loadRegs x) u = .next w ∧ ∀ k : Reg, k ≤ x → w.getV k = t.readByte (s.base + k.val) := by
  have hbase : u.base = s.base := congrArg BitVec.toNat hi
  obtain ⟨w, hnext, hval, -⟩ := exec_loadRegs_spec (x := x) (s := u) (hbase ▸ hb)
  refine ⟨w, hnext, fun k hk => ?_⟩
  rw [hval k, if_pos hk, hbase]
  exact congrArg (Memory.read · _) hmem

/-- Settles O45: the load reads the bytes that the store put there. -/
theorem storeThenLoadRestores : Obligations.StoreThenLoadRestores := by
  intro x s hm
  refine ⟨fun hb => ?registers, fun hb => ?digits⟩
  case registers =>
    obtain ⟨t, hstore, hstored, -⟩ := exec_storeRegs_spec hm hb
    refine ⟨t, hstore, fun u hmem hi => ?_⟩
    obtain ⟨w, hload, hloaded⟩ := exec_loadRegs_of_mem hmem hi hb
    exact ⟨w, hload, fun k hk => (hloaded k hk).trans (hstored k hk)⟩
  case digits =>
    obtain ⟨t, hstore, h0, h1, h2, -⟩ := (storeDecimalDigits x s hm).1 hb
    refine ⟨t, hstore, fun u hmem hi => ?_⟩
    obtain ⟨w, hload, hloaded⟩ := exec_loadRegs_of_mem (x := 2) hmem hi hb
    have hv0 : (w.getV 0).toNat = (s.getV x).toNat / 100 := by rw [hloaded 0 (by decide)]; exact h0
    have hv1 : (w.getV 1).toNat = (s.getV x).toNat / 10 % 10 := by rw [hloaded 1 (by decide)]; exact h1
    have hv2 : (w.getV 2).toNat = (s.getV x).toNat % 10 := by rw [hloaded 2 (by decide)]; exact h2
    exact ⟨w, hload, by omega, by omega, by omega⟩

/-- Settles O46: `pc` moves to where `V[0]` and `V[1]` were stored. -/
theorem storeIsSeenByNextFetch : Obligations.StoreIsSeenByNextFetch := by
  intro x s hm hx hb hnextAddress
  obtain ⟨t, hnext, hstored, -, hpc, -⟩ := exec_storeRegs_spec hm hb
  have hpcNat : t.pc.toNat = s.base := by
    have hfits : s.pc.toNat + 2 < 65536 := by omega
    rw [hpc, hnextAddress]
    exact BitVec.toNat_add_of_lt hfits
  have hhi : t.readByte s.base = s.getV 0 := hstored 0 (Fin.zero_le x)
  have hlo : t.readByte (s.base + 1) = s.getV 1 := hstored 1 hx
  refine ⟨t, hnext, hpcNat, ?_⟩
  rw [State.fetchWord, hpcNat, hhi, hlo, wordOfBytes]

end Sys2Proof.Machine
end

section
/-! Drawing (44_display.md R142 to R146): a sprite's rows, laid from their start row down the torus, as one bit per pixel;
then `Dxyn` as the XOR of the screen with those bits. -/

namespace Sys2Proof.Machine

/-! ### The rows of a sprite -/

/-- How far row `r` is below start row `y0` on the torus. -/
def rowOffset (y0 : Nat) (r : Row) : Nat := (r.val + 32 - y0 % 32) % 32

theorem rowOffset_eq_zero (y0 : Nat) (r : Row) : rowOffset y0 r = 0 ↔ r = wrapRow y0 := by
  have hr := r.isLt
  rw [Fin.ext_iff, wrapRow_val, rowOffset]
  omega

/-- From the next start row the offset is one less, but for the start row itself, which is last. -/
theorem rowOffset_succ (y0 : Nat) (r : Row) :
    rowOffset (y0 + 1) r = if rowOffset y0 r = 0 then 31 else rowOffset y0 r - 1 := by
  have hr := r.isLt
  unfold rowOffset
  split <;> omega

/-- The bit that the rows `bs` from `(x0, y0)` on put on pixel `(r, c)`. -/
def rowsBit (x0 y0 : Nat) (bs : List Byte) (r : Row) (c : Column) : Bool :=
  decide (rowOffset y0 r < bs.length) && rowBit x0 (bs.getD (rowOffset y0 r) 0) 8 c

/-- The first row is on the start row, and the others are the rows from the next start row on. -/
theorem rowsBit_cons (x0 y0 : Nat) (b : Byte) (bs : List Byte) (r : Row) (c : Column) :
    rowsBit x0 y0 (b :: bs) r c = if r = wrapRow y0 then rowBit x0 b 8 c else rowsBit x0 (y0 + 1) bs r c := by
  unfold rowsBit
  rw [rowOffset_succ]
  by_cases h : rowOffset y0 r = 0
  · rw [if_pos ((rowOffset_eq_zero y0 r).1 h), h]
    simp
  · rw [if_neg (mt (rowOffset_eq_zero y0 r).2 h), if_neg h]
    obtain ⟨d, hd⟩ := Nat.exists_eq_succ_of_ne_zero h
    simp [hd]

/-- No later row is on the start row. -/
theorem rowsBit_succ_start (x0 y0 : Nat) {bs : List Byte} (hlen : bs.length < 32) (c : Column) :
    rowsBit x0 (y0 + 1) bs (wrapRow y0) c = false := by
  have hlast : rowOffset (y0 + 1) (wrapRow y0) = 31 := by
    rw [rowOffset_succ, if_pos ((rowOffset_eq_zero y0 _).2 rfl)]
  simp [rowsBit, hlast, show ¬ 31 < bs.length by omega]

/-- Rows drawn one after another: each pixel is XORed with its bit, and a collision is a set pixel under a set bit. -/
theorem drawRows_spec (p : Canvas) (x0 y0 : Nat) {bs : List Byte} (hlen : bs.length ≤ 32) :
    (∀ r c, framePixel (p.drawRows x0 y0 bs).fb r c = (framePixel p.fb r c ^^ rowsBit x0 y0 bs r c)) ∧
      ((p.drawRows x0 y0 bs).collided = true ↔
        p.collided = true ∨ ∃ r c, framePixel p.fb r c = true ∧ rowsBit x0 y0 bs r c = true) := by
  induction bs generalizing p y0 with
  | nil => simp [Canvas.drawRows, rowsBit]
  | cons b bs ih =>
    have hlt : bs.length < 32 := hlen
    obtain ⟨hrow, hrowHit⟩ := drawRow_spec p x0 (wrapRow y0) b
    obtain ⟨hrows, hrowsHit⟩ := ih (p.drawRow x0 (wrapRow y0) b) (y0 + 1) hlt.le
    have hstart := rowsBit_succ_start x0 y0 hlt
    have hcons := rowsBit_cons x0 y0 b bs
    rw [Canvas.drawRows]
    refine ⟨fun r c => ?pixel, ?hit⟩
    case pixel =>
      rw [hrows, hrow, hcons]
      by_cases hr : r = wrapRow y0
      · subst hr; simp [hstart]
      · simp [hr]
    case hit =>
      rw [hrowsHit, hrowHit, or_assoc]
      refine or_congr_right ⟨?_, ?_⟩
      · rintro (⟨c, hpix, hbit⟩ | ⟨r, c, hpix, hbit⟩)
        · exact ⟨wrapRow y0, c, hpix, by rw [hcons, if_pos rfl]; exact hbit⟩
        · have hr : r ≠ wrapRow y0 := fun e => by simp [e, hstart] at hbit
          refine ⟨r, c, ?_, by rw [hcons, if_neg hr]; exact hbit⟩
          simpa [hrow, hr] using hpix
      · rintro ⟨r, c, hpix, hbit⟩
        rw [hcons] at hbit
        by_cases hr : r = wrapRow y0
        · subst hr
          exact .inl ⟨c, hpix, by simpa using hbit⟩
        · rw [if_neg hr] at hbit
          exact .inr ⟨r, c, by simpa [hrow, hr] using hpix, hbit⟩

/-! ### `Dxyn` -/

/-- The rows read from `I` on put on each pixel the sprite bit of the torus. -/
theorem State.rowsBit_readBytes (s : State) (x0 y0 n : Nat) (r : Row) (c : Column) :
    rowsBit (x0 % 64) (y0 % 32) (s.readBytes s.base n) r c = s.spriteBit x0 y0 n r c := by
  unfold rowsBit State.spriteBit rowBit rowOffset
  rw [Nat.mod_mod, Nat.mod_mod, s.readBytes_length]
  by_cases h : (r.val + 32 - y0 % 32) % 32 < n
  · simp [h, State.readBytes]
  · simp [h]

section
variable (x y : Reg) (n : Nibble) (s : State)

/-- The screen and the collision after the sprite of `Dxyn` is drawn on the screen of `s`. -/
def State.drawn : Canvas :=
  drawSprite s.fb (startColumn (s.getV x)) (startRow (s.getV y)) (s.readBytes s.base n.toNat)

theorem exec_drw : exec (.drw x y n) s =
    s.guarded s.base n.toNat
      ((s.advance.setFb (s.drawn x y n).fb).setV vf (flagByte (s.drawn x y n).collided)).complete := rfl

theorem State.drawn_spec :
    (∀ r c, framePixel (s.drawn x y n).fb r c =
      (s.pixel r c ^^ s.spriteBit (s.getV x).toNat (s.getV y).toNat n.toNat r c)) ∧
    ((s.drawn x y n).collided = true ↔ s.collides (s.getV x).toNat (s.getV y).toNat n.toNat) := by
  have hn := n.isLt
  have hlen : (s.readBytes s.base n.toNat).length ≤ 32 := by rw [s.readBytes_length]; omega
  obtain ⟨hpixel, hhit⟩ := drawRows_spec ⟨s.fb, false⟩ (startColumn (s.getV x)) (startRow (s.getV y)) hlen
  have hbit := s.rowsBit_readBytes (s.getV x).toNat (s.getV y).toNat n.toNat
  refine ⟨fun r c => (hpixel r c).trans (congrArg _ (hbit r c)), hhit.trans ?_⟩
  simp only [Bool.false_eq_true, false_or]
  exact exists_congr fun r => exists_congr fun c => and_congr_right' (by rw [← hbit]; rfl)

/-- The bounds of `Dxyn`: with no rows nothing is accessed (R146). -/
theorem beyondMemory_rows {a : Nat} : beyondMemory a n.toNat ↔ 4095 < a + n.toNat ∧ n ≠ 0 := by
  have htop : Config.memTop = 4094 := rfl
  have hzero : n ≠ 0 ↔ n.toNat ≠ 0 := by rw [ne_eq, ← BitVec.toNat_inj]; rfl
  unfold beyondMemory
  rw [hzero]
  omega

end

/-- Within bounds `Dxyn` leaves the drawn screen and the collision in `VF`, and changes nothing else. -/
theorem exec_drw_spec (x y : Reg) {n : Nibble} {s : State} (hb : s.base + n.toNat ≤ 4095 ∨ n = 0) :
    ∃ t, exec (.drw x y n) s = .next t ∧ t.fb = (s.drawn x y n).fb ∧ t.getV vf = flagByte (s.drawn x y n).collided ∧
      t.pc = s.pc + 2 ∧ Frames s t [vf] [.display] ∧ SameEngine s t := by
  have hin : ¬ beyondMemory s.base n.toNat := by
    rw [beyondMemory_rows]
    rintro ⟨hout, hrows⟩
    exact hb.elim hout.not_ge hrows
  have heff : Effect (.drw x y n) s
      ((s.advance.setFb (s.drawn x y n).fb).setV vf (flagByte (s.drawn x y n).collided)) :=
    .draw List.mem_cons_self List.mem_cons_self _ _
  rw [exec_drw]
  exact ⟨_, State.guarded_neg hin _, rfl, by simp, rfl, heff.frames.setReply .done,
    ⟨heff.engine.status_same, heff.engine.err_same⟩⟩

section
variable {x y : Reg} {n : Nibble} {s t : State}

theorem State.pixel_of_drawn (h : t.fb = (s.drawn x y n).fb) (r : Row) (c : Column) :
    t.pixel r c = (s.pixel r c ^^ s.spriteBit (s.getV x).toNat (s.getV y).toNat n.toNat r c) := by
  rw [← (s.drawn_spec x y n).1, ← h]
  rfl

theorem State.flag_eq_one_iff_collides (h : t.getV vf = flagByte (s.drawn x y n).collided) :
    t.getV vf = 1 ↔ s.collides (s.getV x).toNat (s.getV y).toNat n.toNat := by
  rw [h, ← (s.drawn_spec x y n).2]
  cases (s.drawn x y n).collided <;> decide

theorem State.flag_eq_zero_of_not_collides (h : t.getV vf = flagByte (s.drawn x y n).collided)
    (hc : ¬ s.collides (s.getV x).toNat (s.getV y).toNat n.toNat) : t.getV vf = 0 := by
  rw [h, Bool.eq_false_iff.2 (mt (s.drawn_spec x y n).2.1 hc)]
  rfl

/-- Two screens with the same pixels are the same. -/
theorem State.fb_eq_of_pixel_eq (h : ∀ r c, t.pixel r c = s.pixel r c) : t.fb = s.fb := by
  refine Vector.ext fun r hr => BitVec.eq_of_getLsbD_eq fun c hc => ?_
  exact h ⟨r, hr⟩ ⟨c, hc⟩

/-- A draw moves neither the sprite nor its bytes. -/
theorem Frames.spriteBit_eq (h : Frames s t [vf] [.display]) (x0 y0 k : Nat) (r : Row) (c : Column) :
    t.spriteBit x0 y0 k r c = s.spriteBit x0 y0 k r c := by
  have hbase : t.base = s.base := congrArg BitVec.toNat (h.parts_same .index (by decide))
  have hread : ∀ a, t.readByte a = s.readByte a := h.parts_same .memory (by decide)
  simp only [State.spriteBit, hbase, hread]

/-- A frame that may change the screen is one that may not, where the screen is the same. -/
theorem Frames.of_fb_eq {regs : List Reg} (h : Frames s t regs [.display]) (hfb : t.fb = s.fb) : Frames s t regs [] where
  regs_same := h.regs_same
  parts_same p _ := by
    by_cases hp : p = .display
    · subst hp; exact hfb
    · exact h.parts_same p (by simpa using hp)

end

/-- Settles O48: the bits put on the screen are the torus's, and `VF` is the collision. -/
theorem drawIsXorOnTorus : Obligations.DrawIsXorOnTorus := by
  intro x y n s
  refine ⟨fun hb => ?inBounds, fun hout => ?out⟩
  case inBounds =>
    obtain ⟨t, hnext, hfb, hflag, hrest⟩ := exec_drw_spec x y hb
    exact ⟨t, hnext, State.pixel_of_drawn hfb, (State.flag_eq_one_iff_collides hflag).2,
      State.flag_eq_zero_of_not_collides hflag, hrest⟩
  case out =>
    have he : fatalError (.drw x y n) s = .addressOutOfBounds := if_pos ((beyondMemory_rows n).2 hout)
    exact he ▸ fatalErrorIsPrecise (.drw x y n) s (by simp [he])

/-- Settles O49: the second draw has the sprite, the place and the bounds of the first, so it XORs each pixel with the same
bit again; on a clear area the first draw sets exactly the sprite's pixels. -/
theorem drawTwiceRestoresScreen : Obligations.DrawTwiceRestoresScreen := by
  intro x y n s hx hy hb
  obtain ⟨t, hfirst, htfb, htflag, -, htframe, -⟩ := exec_drw_spec x y (.inl hb)
  have hbase : t.base = s.base := congrArg BitVec.toNat (htframe.parts_same .index (by decide))
  have hvx : t.getV x = s.getV x := htframe.regs_same x (by simpa using hx)
  have hvy : t.getV y = s.getV y := htframe.regs_same y (by simpa using hy)
  have hbit := htframe.spriteBit_eq (s.getV x).toNat (s.getV y).toNat n.toNat
  have htpixel := State.pixel_of_drawn htfb
  obtain ⟨u, hsecond, hufb, huflag, -⟩ := exec_drw_spec x y (n := n) (s := t) (.inl (hbase ▸ hb))
  refine ⟨t, u, hfirst, hsecond, State.fb_eq_of_pixel_eq fun r c => ?restored, fun hclear => ⟨?first, ?second⟩⟩
  case restored => rw [State.pixel_of_drawn hufb, hvx, hvy, hbit, htpixel, Bool.xor_assoc, Bool.xor_self, Bool.xor_false]
  case first => exact State.flag_eq_zero_of_not_collides htflag hclear
  case second =>
    rw [State.flag_eq_one_iff_collides huflag, hvx, hvy]
    refine exists_congr fun r => exists_congr fun c => ?_
    rw [hbit, htpixel]
    refine ⟨fun hset => ⟨?_, hset⟩, fun h => h.2⟩
    have hwas : s.pixel r c = false := Bool.eq_false_iff.2 fun hpix => hclear ⟨r, c, hpix, hset⟩
    rw [hwas, hset]
    rfl

/-- Settles O50: no rows are drawn, so the screen is the same and nothing collides. -/
theorem drawOfNoRows : Obligations.DrawOfNoRows := by
  intro x y s
  obtain ⟨t, hnext, hfb, hflag, hpc, hframe, hengine⟩ := exec_drw_spec (s := s) x y (n := 0) (.inr rfl)
  have hnone : s.drawn x y 0 = ⟨s.fb, false⟩ := rfl
  rw [hnone] at hfb hflag
  exact ⟨t, hnext, hflag, hpc, hframe.of_fb_eq hfb, hengine⟩

end Sys2Proof.Machine
end
